-- ==== Sys2Proof/Word.lean ====
section
/-! DEFINITION. The byte and the one addition the block performs on bytes (00_scope.md R9, R11; 40_encode.md R93). -/

namespace Sys2Proof

/-- A byte: an unsigned integer in `0..255` (00_scope.md R9). -/
abbrev Byte := BitVec 8

/-- `add8(a, b) = (a + b) mod 256` (00_scope.md R11, 40_encode.md R90). -/
abbrev add8 (a b : Byte) : Byte := a + b

end Sys2Proof
end

