-- ==== Sys2Proof/Config.lean ====
section
/-! DEFINITION. The hardwired constants of the block (00_scope.md R8, 10_state.md R27) and the one value the spec leaves open. -/

namespace Sys2Proof.Config

/-- First byte of the start marker (00_scope.md R8, spec decision D1; UNVERIFIED, log 20). -/
def MARK0 : Byte := 0x10

/-- Second byte of the start marker (00_scope.md R8, spec decision D1; UNVERIFIED, log 20). -/
def MARK1 : Byte := 0x02

/-- The byte that is doubled inside ADDRESS/PAYLOAD: `STUFF = MARK0` (00_scope.md R8, spec decision D2; UNVERIFIED, log 19). -/
def STUFF : Byte := MARK0

/-- Largest value of LENGTH (00_scope.md R8). -/
def MAX_LEN : Nat := 255

/-- Largest logical ADDRESS/PAYLOAD length `ENC` accepts (00_scope.md R8). -/
def MAX_PAYLOAD : Nat := 254

/-- Shortest frame `DEC` can accept (00_scope.md R8). -/
def MIN_FRAME : Nat := 6

/-- Longest frame on the wire (00_scope.md R8). -/
def MAX_FRAME : Nat := 514

/-- Capacity of the accumulation buffer (00_scope.md R8, spec decision D6). -/
def BUF_CAP : Nat := 514

/-- FREE VALUE (log 6, DESIGN CHOICE): what `REM <- REM - 1` leaves when `REM = 0`.
The spec says that no rule ever does this (10_state.md R23, R25) and gives no result. -/
opaque remBelowZero : Byte

end Sys2Proof.Config
end

