-- ==== Sys2Proof/Syntax.lean ====
section
/-! DEFINITION. The instructions: one constructor per row of spec/opcode_table.json, and the packet in which one is issued at the operation port. -/

namespace Sys2Proof

/-- The record `DEC` returns on success (41_decode.md R113). -/
structure ResponseFrame where
  station : Byte
  function : Byte
  payload : List Byte
  checksum : Byte
deriving DecidableEq, Repr

/-- The rows of spec/opcode_table.json.
The first group are units on the wire, the second the operations of R73, the third the pseudo-operations of R77.
The other four groups are the pieces the operations are made of: the branches of the scanner's rules (R131 to R138), and the
pseudocode's `return OK`, `raise E`, `return (outcome, used)` and `PHASE <- p` (00_scope.md R11); log 11 to log 13. -/
inductive Instr where
  /-- `FRAME`: one whole frame arrives on the byte stream (30_encoding.md R60). `region` is physical. -/
  | frame (station length function : Byte) (region : List Byte) (checksum : Byte)
  /-- `MARK`: the start marker arrives on the byte stream (R61). -/
  | mark
  /-- `STUFFPAIR`: a doubled marker byte arrives on the byte stream (R67). -/
  | stuffPair
  /-- `ENC(station, function, payload)` (R94). -/
  | enc (station function : Byte) (payload : List Byte)
  /-- `DEC(raw, expect_fn)` (R112, R114). -/
  | dec (raw : List Byte) (expectFn : Byte)
  /-- `SCANB(b)` (R130). -/
  | scanb (b : Byte)
  /-- `SCANR()` (R141). -/
  | scanr
  /-- `FEED(chunk)` (R144). -/
  | feed (chunk : List Byte)
  /-- `ROUNDTRIP(s, f, p)`, that is `DEC(ENC(s, f, p), f)` (R77). -/
  | roundtrip (station function : Byte) (payload : List Byte)
  | scanbSeek0Mark0
  | scanbSeek0Other (b : Byte)
  | scanbSeek1Mark1
  | scanbSeek1Mark0
  | scanbSeek1Other (b : Byte)
  | scanbHdrStationAny (b : Byte)
  | scanbHdrLenZero
  | scanbHdrLenNonzero (b : Byte)
  | scanbBodyFnAny (b : Byte)
  | scanbBodyMark0
  | scanbBodyOther (b : Byte)
  | scanbBodyEscMark0
  | scanbBodyEscOther (b : Byte)
  | scanbCksumAny (b : Byte)
  /-- `return OK { .. }` of R114. -/
  | ok (record : ResponseFrame)
  /-- `raise MalformedFrame` (R172). -/
  | malformedFrame
  /-- `raise ChecksumMismatch` (R172). -/
  | checksumMismatch
  /-- `raise UnexpectedFunctionCode` (R172). -/
  | unexpectedFunctionCode
  /-- `return (NeedMoreData, used)` of R145. -/
  | needMoreData (used : Nat)
  /-- `return (FrameReady(f), used)` of R145. -/
  | frameReady (f : List Byte) (used : Nat)
  /-- `return (Garbage(k), used = k)` of R145. -/
  | garbage (k : Nat)
  /-- `PHASE <- SEEK0` (00_scope.md R11), and so on for the other seven codes of R21. -/
  | phaseSeek0
  | phaseSeek1
  | phaseHdrStation
  | phaseHdrLen
  | phaseBodyFn
  | phaseBody
  | phaseBodyEsc
  | phaseCksum
deriving DecidableEq, Repr

/-- The code spaces of spec/opcode_table.json (its column "format").
Codes of different spaces coincide (`ENC`, `OK`, `NeedMoreData` and `PHASE.SEEK0` are all zero), so a packet says which space its
code is of (log 1, DESIGN CHOICE). -/
inductive Format where
  | wire
  | op
  | pseudo
  | scanDispatch
  | decStatus
  | feedOutcome
  | phaseCode
deriving DecidableEq, Repr

/-- One item at the operation port: a code and its operand bytes (95_test_vectors.md section 3, log 1). -/
structure Packet where
  format : Format
  bytes : List Byte
deriving DecidableEq, Repr

end Sys2Proof
end

