-- ==== Sys2Proof/Machine/Operands.lean ====
section
/-! DEFINITION. The operand forms of the block: byte sequences, their checksum, stuffing and its reversal, the fields of a frame, and the byte classes of the scanner. -/

namespace Sys2Proof.Machine

open Sys2Proof.Config

/-- `sum8`: the sum modulo 256 of all bytes of `s` (40_encode.md R90). -/
def sum8 (s : List Byte) : Byte := s.foldl add8 0#8

/-- `stuff`: every byte equal to `STUFF` doubled (40_encode.md R91). -/
def stuff : List Byte → List Byte
  | [] => []
  | b :: r => if b = STUFF then STUFF :: STUFF :: stuff r else b :: stuff r

/-- `unstuff`: the payload whose stuffed image is the region, if there is one (41_decode.md R110). -/
def unstuff : List Byte → Option (List Byte)
  | [] => some []
  | [b] => if b = STUFF then none else some [b]
  | b :: c :: t =>
    if b = STUFF then
      if c = STUFF then (unstuff t).map (STUFF :: ·) else none
    else (unstuff (c :: t)).map (b :: ·)

/-- The bytes of a frame up to its last payload byte, with the given LENGTH (30_encoding.md R60). -/
def frameHead (station length function : Byte) (region : List Byte) : List Byte :=
  [MARK0, MARK1, station, length, function] ++ region

/-- The bytes of a frame in wire order (30_encoding.md R60). -/
def frameBytes (station length function : Byte) (region : List Byte) (checksum : Byte) : List Byte :=
  frameHead station length function region ++ [checksum]

/-- LENGTH of a frame that carries `payload`: `1 + |payload|`, which fits a byte when `|payload| <= 254` (30_encoding.md R64). -/
def lengthField (payload : List Byte) : Byte := BitVec.ofNat 8 (1 + payload.length)

/-- `raw[i]`, used only where `i < |raw|` (00_scope.md R10). -/
def byteAt (raw : List Byte) (i : Nat) : Byte := raw.getD i 0#8

/-- The byte at index `n-1`, the CHECKSUM (30_encoding.md R68); used only where `raw` is not empty. -/
def checksumField (raw : List Byte) : Byte := raw.getLastD 0#8

/-- `raw[5..n-2]`, the ADDRESS/PAYLOAD region (20_memory.md R41). -/
def regionField (raw : List Byte) : List Byte := (raw.drop 5).dropLast

/-- The three classes of an input byte (30_encoding.md R76). -/
inductive ByteClass where
  | isMark0
  | isMark1
  | other
deriving DecidableEq, Repr

/-- The class of an input byte (30_encoding.md R76). -/
def byteClass (b : Byte) : ByteClass :=
  if b = MARK0 then .isMark0 else if b = MARK1 then .isMark1 else .other

end Sys2Proof.Machine
end

