-- ==== Sys2Proof/WellFormed.lean ====
section
/-! DEFINITION. The checks on an instruction's operands that its row of the table states. -/

namespace Sys2Proof

open Sys2Proof.Config Sys2Proof.Machine

/-- An instruction is well-formed when its operands are ones its row names.
A frame is well-formed when its region is a stuffed payload, LENGTH counts it and CHECKSUM sums it (R64, R67, R68).
A dispatch row takes the bytes of its class only (R76).
A record holds at most 254 payload bytes (R113).
An outcome carries a candidate of `5..514` bytes (R28) or a count of at least one byte (R146). -/
def Instr.wellFormed : Instr → Bool
  | .frame st l f region c =>
    match unstuff region with
    | none => false
    | some p => decide (l.toNat = 1 + p.length) && decide (c = sum8 (frameHead st l f region))
  | .mark => true
  | .stuffPair => true
  | .enc _ _ _ => true
  | .dec _ _ => true
  | .scanb _ => true
  | .scanr => true
  | .feed _ => true
  | .roundtrip _ _ _ => true
  | .scanbSeek0Mark0 => true
  | .scanbSeek0Other b => decide (b ≠ MARK0)
  | .scanbSeek1Mark1 => true
  | .scanbSeek1Mark0 => true
  | .scanbSeek1Other b => decide (b ≠ MARK0) && decide (b ≠ MARK1)
  | .scanbHdrStationAny _ => true
  | .scanbHdrLenZero => true
  | .scanbHdrLenNonzero b => decide (b ≠ 0#8)
  | .scanbBodyFnAny _ => true
  | .scanbBodyMark0 => true
  | .scanbBodyOther b => decide (b ≠ STUFF)
  | .scanbBodyEscMark0 => true
  | .scanbBodyEscOther b => decide (b ≠ STUFF)
  | .scanbCksumAny _ => true
  | .ok r => decide (r.payload.length ≤ MAX_PAYLOAD)
  | .malformedFrame => true
  | .checksumMismatch => true
  | .unexpectedFunctionCode => true
  | .needMoreData _ => true
  | .frameReady f used => decide (5 ≤ f.length) && decide (f.length ≤ MAX_FRAME) && decide (1 ≤ used)
  | .garbage k => decide (1 ≤ k)
  | .phaseSeek0 => true
  | .phaseSeek1 => true
  | .phaseHdrStation => true
  | .phaseHdrLen => true
  | .phaseBodyFn => true
  | .phaseBody => true
  | .phaseBodyEsc => true
  | .phaseCksum => true

end Sys2Proof
end

