-- ==== Sys2Proof/Decode.lean ====
section
/-! DEFINITION. From packets to instructions and back, by the codes of 30_encoding.md R60, R73 to R76 and 10_state.md R21. -/

namespace Sys2Proof

open Sys2Proof.Config Sys2Proof.Machine

/-- Why a packet is no instruction. -/
inductive Reject where
  /-- The packet holds no byte. -/
  | empty
  /-- The first byte is no code of the packet's code space. -/
  | unknownCode (code : Byte)
  /-- The operand bytes are too few, too many, or (a count's filler) not zero. -/
  | operands
  /-- The bytes on the wire are none of `FRAME`, `MARK`, `STUFFPAIR`. -/
  | notWireUnit
deriving DecidableEq, Repr

/-- `FRAME`, `MARK`, `STUFFPAIR` (30_encoding.md R60, R61, R67). -/
def decodeWire : List Byte → Except Reject Instr
  | [] => .error .empty
  | [_] => .error .notWireUnit
  | [b, c] =>
    if b = MARK0 ∧ c = MARK1 then .ok .mark
    else if b = STUFF ∧ c = STUFF then .ok .stuffPair
    else .error .notWireUnit
  | b :: c :: st :: l :: f :: r :: rs =>
    if b = MARK0 ∧ c = MARK1 then .ok (.frame st l f (r :: rs).dropLast ((r :: rs).getLastD 0#8))
    else .error .notWireUnit
  | _ => .error .notWireUnit

/-- The four operations (30_encoding.md R73): the code, then the operands in the order of R28, sequences last. -/
def decodeOp : List Byte → Except Reject Instr
  | [] => .error .empty
  | code :: args =>
    if code = 0#8 then
      match args with
      | st :: f :: payload => .ok (.enc st f payload)
      | _ => .error .operands
    else if code = 1#8 then
      match args with
      | e :: raw => .ok (.dec raw e)
      | _ => .error .operands
    else if code = 2#8 then
      match args with
      | [b] => .ok (.scanb b)
      | _ => .error .operands
    else if code = 3#8 then
      match args with
      | [] => .ok .scanr
      | _ => .error .operands
    else .error (.unknownCode code)

/-- The two pseudo-operations.
The spec gives them no code (30_encoding.md R73); 0 and 1 are the model's (log 1, DESIGN CHOICE). -/
def decodePseudo : List Byte → Except Reject Instr
  | [] => .error .empty
  | code :: args =>
    if code = 0#8 then .ok (.feed args)
    else if code = 1#8 then
      match args with
      | st :: f :: payload => .ok (.roundtrip st f payload)
      | _ => .error .operands
    else .error (.unknownCode code)

/-- The scanner's dispatch word `{PHASE, b}` (30_encoding.md R76): bits 10..8 are `PHASE`, bits 7..0 the byte.
A row that matches the whole byte takes priority over the OTHER or NONZERO row of its phase. -/
def decodeDispatch (phase b : Byte) : Except Reject Instr :=
  if phase = 0#8 then .ok (if b = MARK0 then .scanbSeek0Mark0 else .scanbSeek0Other b)
  else if phase = 1#8 then
    .ok (if b = MARK1 then .scanbSeek1Mark1 else if b = MARK0 then .scanbSeek1Mark0 else .scanbSeek1Other b)
  else if phase = 2#8 then .ok (.scanbHdrStationAny b)
  else if phase = 3#8 then .ok (if b = 0#8 then .scanbHdrLenZero else .scanbHdrLenNonzero b)
  else if phase = 4#8 then .ok (.scanbBodyFnAny b)
  else if phase = 5#8 then .ok (if b = STUFF then .scanbBodyMark0 else .scanbBodyOther b)
  else if phase = 6#8 then .ok (if b = STUFF then .scanbBodyEscMark0 else .scanbBodyEscOther b)
  else if phase = 7#8 then .ok (.scanbCksumAny b)
  else .error (.unknownCode phase)

/-- `DEC` status (30_encoding.md R74), the record beside it when `OK`. -/
def decodeStatus : List Byte → Except Reject Instr
  | [] => .error .empty
  | code :: args =>
    if code = 0#8 then
      match args with
      | st :: f :: ck :: payload => .ok (.ok ⟨st, f, payload, ck⟩)
      | _ => .error .operands
    else if code = 1#8 then (if args = [] then .ok .malformedFrame else .error .operands)
    else if code = 2#8 then (if args = [] then .ok .checksumMismatch else .error .operands)
    else if code = 3#8 then (if args = [] then .ok .unexpectedFunctionCode else .error .operands)
    else .error (.unknownCode code)

/-- A count at the outcome port: as many zero bytes as the count says (log 1, DESIGN CHOICE). -/
def countBytes (n : Nat) : List Byte := List.replicate n 0#8

/-- `FEED` outcome (30_encoding.md R75), the bytes and counts beside it.
Code 3 is unused and rejected. -/
def decodeOutcome : List Byte → Except Reject Instr
  | [] => .error .empty
  | code :: args =>
    if code = 0#8 then (if args = countBytes args.length then .ok (.needMoreData args.length) else .error .operands)
    else if code = 1#8 then
      match args with
      | lo :: hi :: rest =>
        let n := lo.toNat + 256 * hi.toNat
        let used := rest.length - n
        if n ≤ rest.length ∧ rest.drop n = countBytes used then .ok (.frameReady (rest.take n) used)
        else .error .operands
      | _ => .error .operands
    else if code = 2#8 then (if args = countBytes args.length then .ok (.garbage args.length) else .error .operands)
    else .error (.unknownCode code)

/-- `PHASE` codes (10_state.md R21). -/
def decodePhase : List Byte → Except Reject Instr
  | [] => .error .empty
  | [code] =>
    if code = 0#8 then .ok .phaseSeek0
    else if code = 1#8 then .ok .phaseSeek1
    else if code = 2#8 then .ok .phaseHdrStation
    else if code = 3#8 then .ok .phaseHdrLen
    else if code = 4#8 then .ok .phaseBodyFn
    else if code = 5#8 then .ok .phaseBody
    else if code = 6#8 then .ok .phaseBodyEsc
    else if code = 7#8 then .ok .phaseCksum
    else .error (.unknownCode code)
  | _ => .error .operands

/-- The instruction a packet codes, or why it codes none. -/
def decode (p : Packet) : Except Reject Instr :=
  match p.format with
  | .wire => decodeWire p.bytes
  | .op => decodeOp p.bytes
  | .pseudo => decodePseudo p.bytes
  | .scanDispatch =>
    match p.bytes with
    | [phase, b] => decodeDispatch phase b
    | _ => .error .operands
  | .decStatus => decodeStatus p.bytes
  | .feedOutcome => decodeOutcome p.bytes
  | .phaseCode => decodePhase p.bytes

/-- The packet of an instruction, from the same tables. -/
def encode : Instr → Packet
  | .frame st l f region c => ⟨.wire, frameBytes st l f region c⟩
  | .mark => ⟨.wire, [MARK0, MARK1]⟩
  | .stuffPair => ⟨.wire, [STUFF, STUFF]⟩
  | .enc st f payload => ⟨.op, 0 :: st :: f :: payload⟩
  | .dec raw e => ⟨.op, 1 :: e :: raw⟩
  | .scanb b => ⟨.op, [2, b]⟩
  | .scanr => ⟨.op, [3]⟩
  | .feed chunk => ⟨.pseudo, 0 :: chunk⟩
  | .roundtrip st f payload => ⟨.pseudo, 1 :: st :: f :: payload⟩
  | .scanbSeek0Mark0 => ⟨.scanDispatch, [0, MARK0]⟩
  | .scanbSeek0Other b => ⟨.scanDispatch, [0, b]⟩
  | .scanbSeek1Mark1 => ⟨.scanDispatch, [1, MARK1]⟩
  | .scanbSeek1Mark0 => ⟨.scanDispatch, [1, MARK0]⟩
  | .scanbSeek1Other b => ⟨.scanDispatch, [1, b]⟩
  | .scanbHdrStationAny b => ⟨.scanDispatch, [2, b]⟩
  | .scanbHdrLenZero => ⟨.scanDispatch, [3, 0]⟩
  | .scanbHdrLenNonzero b => ⟨.scanDispatch, [3, b]⟩
  | .scanbBodyFnAny b => ⟨.scanDispatch, [4, b]⟩
  | .scanbBodyMark0 => ⟨.scanDispatch, [5, STUFF]⟩
  | .scanbBodyOther b => ⟨.scanDispatch, [5, b]⟩
  | .scanbBodyEscMark0 => ⟨.scanDispatch, [6, STUFF]⟩
  | .scanbBodyEscOther b => ⟨.scanDispatch, [6, b]⟩
  | .scanbCksumAny b => ⟨.scanDispatch, [7, b]⟩
  | .ok r => ⟨.decStatus, 0 :: r.station :: r.function :: r.checksum :: r.payload⟩
  | .malformedFrame => ⟨.decStatus, [1]⟩
  | .checksumMismatch => ⟨.decStatus, [2]⟩
  | .unexpectedFunctionCode => ⟨.decStatus, [3]⟩
  | .needMoreData used => ⟨.feedOutcome, 0 :: countBytes used⟩
  | .frameReady f used =>
    ⟨.feedOutcome, 1 :: BitVec.ofNat 8 f.length :: BitVec.ofNat 8 (f.length / 256) :: (f ++ countBytes used)⟩
  | .garbage k => ⟨.feedOutcome, 2 :: countBytes k⟩
  | .phaseSeek0 => ⟨.phaseCode, [0]⟩
  | .phaseSeek1 => ⟨.phaseCode, [1]⟩
  | .phaseHdrStation => ⟨.phaseCode, [2]⟩
  | .phaseHdrLen => ⟨.phaseCode, [3]⟩
  | .phaseBodyFn => ⟨.phaseCode, [4]⟩
  | .phaseBody => ⟨.phaseCode, [5]⟩
  | .phaseBodyEsc => ⟨.phaseCode, [6]⟩
  | .phaseCksum => ⟨.phaseCode, [7]⟩

/-- The zero operand bytes the operation of a code takes after it. -/
def zeroOperands (code : Nat) : List Byte :=
  if code = 0 then [0#8, 0#8] else if code = 1 ∨ code = 2 then [0#8] else []

/-- The packet of a word of spec/opcode_table.json.
Rows of one byte share their codes: 0 to 3 are read as the operations of R73, 4 to 7 as phase codes (log 14).
Rows of two bytes: up to 11 bits a dispatch word, else the two wire bytes, the first one most significant (the table's note).
A longer word is a frame: its low 16 bits are the marker, the bytes after it follow from bit 16 on. -/
def tablePacket (nbits w : Nat) : Packet :=
  let byte (n : Nat) : Byte := BitVec.ofNat 8 n
  if nbits ≤ 8 then
    if w < 4 then ⟨.op, byte w :: zeroOperands w⟩ else ⟨.phaseCode, [byte w]⟩
  else if nbits ≤ 16 then
    if w < 2048 then ⟨.scanDispatch, [byte (w / 256), byte w]⟩
    else ⟨.wire, [byte (w / 256), byte w]⟩
  else
    ⟨.wire, byte (w / 256) :: byte w ::
      (List.range (max 4 ((nbits - 9) / 8))).map fun j => byte (w >>> (16 + 8 * j))⟩

/-- The instruction the decoder reads from a word of spec/opcode_table.json. -/
def decodeTableWord (nbits w : Nat) : Option Instr := (decode (tablePacket nbits w)).toOption

end Sys2Proof
end

