-- ==== Sys2Proof/Machine/State.lean ====
section
/-! DEFINITION. What the machine is made of: the scanner's registers (10_state.md R20), the output ports (R28), the operation port, the reasons to stop, and the reset state (R30). -/

namespace Sys2Proof.Machine

/-- `BUF` (20_memory.md R40): cells with strictly rising addresses, none holding what an unlisted address reads as. -/
abbrev Memory := List Host.Cell

/-- The scanner's sub-phase, the block's program counter (10_state.md R21). -/
inductive Phase where
  | seek0
  | seek1
  | hdrStation
  | hdrLen
  | bodyFn
  | body
  | bodyEsc
  | cksum
deriving DecidableEq, Repr

/-- The three phases of the source document (10_state.md R21, last column). -/
inductive DocPhase where
  | seeking
  | accumulating
  | checksum
deriving DecidableEq, Repr

/-- The event output of a step (30_encoding.md R75, 42_scanner.md R140). -/
inductive Event where
  | none
  | frameReady (f : List Byte)
deriving DecidableEq, Repr

/-- The `ENC` output port (10_state.md R28): a frame, or `refuse` (40_encode.md R97). -/
inductive EncOut where
  | frame (bytes : List Byte)
  | refuse
deriving DecidableEq, Repr

/-- The three errors of `DEC` (60_exceptions.md R171). Each is a bare name: nothing more is recorded. -/
inductive FrameError where
  | malformedFrame
  | checksumMismatch
  | unexpectedFunctionCode
deriving DecidableEq, Repr

/-- The `DEC` output port (10_state.md R28): `OK` with the record, or exactly one error. -/
inductive DecOut where
  | ok (record : ResponseFrame)
  | error (e : FrameError)
deriving DecidableEq, Repr

/-- The outcome of a chunk (30_encoding.md R75). -/
inductive ScanOutcome where
  | needMoreData
  | frameReady (f : List Byte)
  | garbage (k : Nat)
deriving DecidableEq, Repr

/-- The `FEED` output port (10_state.md R28): the outcome, and how many bytes of the chunk were accepted. -/
structure FeedOut where
  outcome : ScanOutcome
  used : Nat
deriving DecidableEq, Repr

/-- The output ports (10_state.md R28). A port is absent when the step did not run its operation.
Every step writes all of them: they carry no memory of earlier steps (R28, log 4). -/
structure Outputs where
  event : Event
  enc : Option EncOut
  dec : Option DecOut
  feed : Option FeedOut
deriving DecidableEq, Repr

/-- The outputs of a step that produces none. -/
def Outputs.idle : Outputs := ⟨.none, none, none, none⟩

/-- The registers of one `SCAN` instance (10_state.md R20). -/
structure ScanState where
  /-- `PHASE` (R21). -/
  phase : Phase
  /-- `BUF` (R22). -/
  buf : Memory
  /-- `BLEN` (R22). -/
  blen : Nat
  /-- `REM` (R23). -/
  rem : Byte
  /-- `CONSUMED` (R24), a natural number that never wraps (spec decision D16, log 17). -/
  consumed : Nat
deriving DecidableEq, Repr

/-- The reset values (10_state.md R30). -/
def ScanState.reset : ScanState := ⟨.seek0, [], 0, 0#8, 0⟩

/-- What is left of a pseudo-operation, which is not a step but a sequence of steps (00_scope.md R12, log 10). -/
inductive Running where
  /-- The loop of 42_scanner.md R145 before its next turn: `|chunk|`, `i`, and the bytes `chunk[i..]`. -/
  | feed (total used : Nat) (rest : List Byte)
  /-- `ROUNDTRIP` after its `ENC`: the operands of the `DEC` to come (30_encoding.md R77). -/
  | decode (raw : List Byte) (expectFn : Byte)
deriving DecidableEq, Repr

/-- The whole machine. `queue` is the operation port: what the controller has issued, oldest first (log 1, log 2).
`running` is the pseudo-operation whose steps are not all done (log 10). -/
structure State where
  scan : ScanState
  out : Outputs
  queue : List Packet
  running : Option Running
deriving DecidableEq, Repr

/-- The machine after reset: the registers of R30, the event `NONE` (R30), no other output, nothing issued and nothing running (log 22, DESIGN CHOICE). -/
def State.reset : State := ⟨ScanState.reset, Outputs.idle, [], none⟩

/-- Why the machine stops. -/
inductive Fault where
  /-- Raised by `step` when the packet at the operation port codes no instruction.
  The spec has no such input (00_scope.md R11: every operation is total); safe (log 5). -/
  | undefinedPacket (why : Reject)
  /-- Raised by `stepInstance` when the named instance does not exist; safe (log 16). -/
  | noInstance
deriving DecidableEq, Repr

/-- Why an instruction has no meaning. -/
inductive Refusal where
  /-- Raised by `exec` alone, for a row of the table not modelled yet; safe. No arm raises it. -/
  | notModelled (mnemonic : String)
deriving DecidableEq, Repr

end Sys2Proof.Machine
end

