-- ==== Sys2Proof/Machine/Flags.lean ====
section
/-! DEFINITION. The block has no flag and no condition code (10_state.md R26). What it reports instead are codes at its ports (30_encoding.md R74, R75) and the `PHASE` code (10_state.md R21); they are computed here, with the checks of `DEC`. -/

namespace Sys2Proof.Machine

open Sys2Proof.Config

/-- The code of a phase (10_state.md R21). -/
def Phase.code : Phase → BitVec 3
  | .seek0 => 0
  | .seek1 => 1
  | .hdrStation => 2
  | .hdrLen => 3
  | .bodyFn => 4
  | .body => 5
  | .bodyEsc => 6
  | .cksum => 7

/-- `doc_phase(PHASE)` (10_state.md R21). -/
def docPhase : Phase → DocPhase
  | .seek0 => .seeking
  | .seek1 => .seeking
  | .hdrStation => .accumulating
  | .hdrLen => .accumulating
  | .bodyFn => .accumulating
  | .body => .accumulating
  | .bodyEsc => .accumulating
  | .cksum => .checksum

/-- The `status` code of a decode result (30_encoding.md R74). -/
def DecOut.status : DecOut → BitVec 2
  | .ok _ => 0
  | .error .malformedFrame => 1
  | .error .checksumMismatch => 2
  | .error .unexpectedFunctionCode => 3

/-- The `outcome` code of a chunk (30_encoding.md R75). -/
def ScanOutcome.code : ScanOutcome → BitVec 2
  | .needMoreData => 0
  | .frameReady _ => 1
  | .garbage _ => 2

/-- The event bit (30_encoding.md R75). -/
def Event.code : Event → BitVec 1
  | .none => 0
  | .frameReady _ => 1

/-- The frames an event delivers: none or one. -/
def Event.frames : Event → List (List Byte)
  | .none => []
  | .frameReady f => [f]

/-- The decode result of a buffer: the checks of 41_decode.md R114 in their order, the first that fails decides. -/
def decodeFrame (raw : List Byte) (expectFn : Byte) : DecOut :=
  if raw.length < 5 then .error .malformedFrame
  else if sum8 raw.dropLast ≠ checksumField raw then .error .checksumMismatch
  else if byteAt raw 0 ≠ MARK0 ∨ byteAt raw 1 ≠ MARK1 then .error .malformedFrame
  else if raw.length < MIN_FRAME then .error .malformedFrame
  else
    match unstuff (regionField raw) with
    | none => .error .malformedFrame
    | some payload =>
      if (byteAt raw 3).toNat ≠ 1 + payload.length then .error .malformedFrame
      else if byteAt raw 4 ≠ expectFn then .error .unexpectedFunctionCode
      else .ok ⟨byteAt raw 2, byteAt raw 4, payload, checksumField raw⟩

end Sys2Proof.Machine
end

