-- ==== Sys2Proof/Machine/Ops.lean ====
section
/-! DEFINITION. The shared operations: reading and writing `BUF`, the register writes of the scanner's rules, delivering a candidate, raising an error, and the returns of the three units. -/

namespace Sys2Proof.Machine

open Sys2Proof.Config

/-- What an address no cell lists reads as (log 7, DESIGN CHOICE).
The spec makes such a byte unreadable (10_state.md R22): no reachable state reads one. -/
def unwrittenByte : Byte := 0#8

/-- The canonical form: addresses strictly rising, no cell equal to what an unlisted address reads as. -/
abbrev Memory.wf (m : Memory) : Prop := m.Pairwise (·.1 < ·.1) ∧ ∀ c ∈ m, c.2 ≠ unwrittenByte

/-- The byte at an address. -/
def Memory.read : Memory → Nat → Byte
  | [], _ => unwrittenByte
  | c :: m, a => if c.1 = a then c.2 else Memory.read m a

/-- A cell put at its place in rising order. -/
def Memory.insertCell (c : Host.Cell) : Memory → Memory
  | [] => [c]
  | d :: m => if c.1 < d.1 then c :: d :: m else d :: Memory.insertCell c m

/-- One byte written; writing what an unlisted address reads as removes the cell. -/
def Memory.write (m : Memory) (a : Nat) (b : Byte) : Memory :=
  let rest := m.filter (·.1 ≠ a)
  if b = unwrittenByte then rest else Memory.insertCell (a, b) rest

/-- `BUF[0..BLEN-1]` (10_state.md R22). -/
def ScanState.bytes (c : ScanState) : List Byte := (List.range c.blen).map c.buf.read

/-- `BufAppend(b)`: write at index `BLEN`, then add 1 to `BLEN` (00_scope.md R11, 10_state.md R22).
No bound is checked: it is proved that none is needed (20_memory.md R47, spec decision D6, log 7). -/
def ScanState.bufAppend (b : Byte) (c : ScanState) : ScanState :=
  { c with buf := c.buf.write c.blen b, blen := c.blen + 1 }

/-- `BufClear()`: `BLEN <- 0` (00_scope.md R11). Bytes at or above `BLEN` are not state (10_state.md R30), so none is kept (log 8). -/
def ScanState.bufClear (c : ScanState) : ScanState := { c with buf := [], blen := 0 }

/-- `CONSUMED <- CONSUMED + 1`, the first thing every `SCANB` step does (10_state.md R24, 42_scanner.md R130). -/
def ScanState.count (c : ScanState) : ScanState := { c with consumed := c.consumed + 1 }

/-- `PHASE <- p` (00_scope.md R11). -/
def ScanState.setPhase (p : Phase) (c : ScanState) : ScanState := { c with phase := p }

/-- `REM <- v` (00_scope.md R11). -/
def ScanState.setRem (v : Byte) (c : ScanState) : ScanState := { c with rem := v }

/-- `REM - 1`. At 0 the spec gives no result and says it never happens (10_state.md R23): a free value (log 6). -/
def decrement (r : Byte) : Byte := if r = 0#8 then remBelowZero else r - 1#8

/-- One logical body byte is taken: `REM <- REM - 1`, then `CKSUM` if `REM` is now 0, else `BODY` (42_scanner.md R135 to R137). -/
def ScanState.takeLogical (c : ScanState) : ScanState :=
  let r := decrement c.rem
  { c with rem := r, phase := if r = 0#8 then .cksum else .body }

/-- A step of the scanner that emits nothing. -/
def quiet (c : ScanState) : ScanState × Event := (c, .none)

/-- `deliver()` (42_scanner.md R139): copy the candidate out, return to seeking with an empty buffer, emit `FRAME_READY`. -/
def deliver (c : ScanState) : ScanState × Event :=
  ((c.bufClear.setRem 0#8).setPhase .seek0, .frameReady c.bytes)

/-- The state after a scanner step: its registers and its event; the other ports are absent. -/
def State.afterScan (s : State) (r : ScanState × Event) : State :=
  { s with scan := r.1, out := { Outputs.idle with event := r.2 } }

/-- A step of `DEC` ends with this result (41_decode.md R114): nothing but the port is written. -/
def State.returnDec (s : State) (d : DecOut) : State :=
  { s with out := { Outputs.idle with dec := some d } }

/-- TAKING AN EXCEPTION: `raise E` (60_exceptions.md R172). The status port is `E`; no record, no state written, nothing saved,
no mode changed, control goes nowhere. There is no return from it: after an error there is nothing to return from (R175). -/
def State.raise (s : State) (e : FrameError) : State := s.returnDec (.error e)

/-- A step of `ENC` ends with this result (40_encode.md R94, R97). -/
def State.returnEnc (s : State) (e : EncOut) : State :=
  { s with out := { Outputs.idle with enc := some e } }

/-- A chunk ends: `return (outcome, used)` (42_scanner.md R145). The event is that of the chunk's last `SCANB`. -/
def State.returnFeed (s : State) (o : ScanOutcome) (used : Nat) : State :=
  { s with out := { s.out with feed := some ⟨o, used⟩ } }

/-- The pseudo-operation has no step left. -/
def State.finish (s : State) : State := { s with running := none }

/-- The pseudo-operation goes on with this in the machine's next step (00_scope.md R12). -/
def State.goOn (s : State) (r : Running) : State := { s with running := some r }

/-- The state with no output: what a step starts from, since outputs carry no memory of earlier steps (10_state.md R28). -/
def State.clearOut (s : State) : State := { s with out := Outputs.idle }

end Sys2Proof.Machine
end

