-- ==== Sys2Proof/Machine/Codec.lean ====
section
/-! DEFINITION. The encoder and the decoder (40_encode.md, 41_decode.md), and the rows of the `DEC` status. -/

namespace Sys2Proof.Machine

open Sys2Proof.Config

/-- The result of `ENC` (40_encode.md R94): stuffed first, summed over the wire bytes (R95); `refuse` beyond 254 bytes (R97). -/
def encodeFrame (station function : Byte) (payload : List Byte) : EncOut :=
  if payload.length > MAX_PAYLOAD then .refuse
  else
    let head := frameHead station (lengthField payload) function (stuff payload)
    .frame (head ++ [sum8 head])

/-- `ENC` (40_encode.md R94). A refusal is a value at the port; the block goes on (60_exceptions.md R170, R174; log 9). -/
def execEnc (station function : Byte) (payload : List Byte) (s : State) : Host.Outcome State Fault Refusal :=
  .next (s.returnEnc (encodeFrame station function payload))

/-- `DEC` (41_decode.md R114): the record is returned or one error is raised. -/
def execDec (raw : List Byte) (expectFn : Byte) (s : State) : Host.Outcome State Fault Refusal :=
  match decodeFrame raw expectFn with
  | .ok r => .next (s.returnDec (.ok r))
  | .error e => .next (s.raise e)

/-- `ROUNDTRIP(s, f, p)`: `DEC(ENC(s, f, p), f)` (30_encoding.md R77).
This is its first step, `ENC`; the second, `DEC`, is the machine's next (00_scope.md R12).
Where `ENC` refuses there are no bytes and `DEC` is not issued (log 15). -/
def execRoundtrip (station function : Byte) (payload : List Byte) (s : State) : Host.Outcome State Fault Refusal :=
  match encodeFrame station function payload with
  | .refuse => .next (s.returnEnc .refuse).finish
  | .frame f => .next ((s.returnEnc (.frame f)).goOn (.decode f function))

/-- `OK`: `return OK { .. }` (41_decode.md R114, R122; log 12). -/
def execOk (record : ResponseFrame) (s : State) : Host.Outcome State Fault Refusal :=
  .next (s.returnDec (.ok record))

/-- `MalformedFrame`: `raise MalformedFrame` (60_exceptions.md R171, R172; log 12). -/
def execMalformedFrame (s : State) : Host.Outcome State Fault Refusal := .next (s.raise .malformedFrame)

/-- `ChecksumMismatch`: `raise ChecksumMismatch` (60_exceptions.md R171, R172; log 12). -/
def execChecksumMismatch (s : State) : Host.Outcome State Fault Refusal := .next (s.raise .checksumMismatch)

/-- `UnexpectedFunctionCode`: `raise UnexpectedFunctionCode` (60_exceptions.md R171, R172; log 12). -/
def execUnexpectedFunctionCode (s : State) : Host.Outcome State Fault Refusal :=
  .next (s.raise .unexpectedFunctionCode)

end Sys2Proof.Machine
end

