-- ==== Sys2Proof/Machine/Scanner.lean ====
section
/-! DEFINITION. The scanner (42_scanner.md): one branch of a rule per dispatch row, `SCANB` that selects the row by `PHASE` and byte, `SCANR`, and the register writes of `PHASE`.

A row's meaning is its branch of the rule. It does not test `PHASE`: selecting the row is `SCANB`'s part (log 13). -/

namespace Sys2Proof.Machine

open Sys2Proof.Config

/-- R131, first line: hold the byte. -/
def rowSeek0Mark0 (c : ScanState) : ScanState × Event := quiet ((c.count.bufAppend MARK0).setPhase .seek1)

/-- R131, second line: the byte is discarded, `PHASE` stays `SEEK0`. -/
def rowSeek0Other (c : ScanState) : ScanState × Event := quiet (c.count.setPhase .seek0)

/-- R132, first line: the marker is complete. -/
def rowSeek1Mark1 (c : ScanState) : ScanState × Event := quiet ((c.count.bufAppend MARK1).setPhase .hdrStation)

/-- R132, second line: the held byte is discarded and this one held; `BUF` stays. -/
def rowSeek1Mark0 (c : ScanState) : ScanState × Event := quiet (c.count.setPhase .seek1)

/-- R132, third line: both bytes are discarded. -/
def rowSeek1Other (c : ScanState) : ScanState × Event := quiet (c.count.bufClear.setPhase .seek0)

/-- R133: STATION. -/
def rowHdrStation (b : Byte) (c : ScanState) : ScanState × Event := quiet ((c.count.bufAppend b).setPhase .hdrLen)

/-- R134, `b = 0`: an empty body. -/
def rowHdrLenZero (c : ScanState) : ScanState × Event := quiet (((c.count.bufAppend 0#8).setRem 0#8).setPhase .cksum)

/-- R134, `b` not 0: LENGTH. -/
def rowHdrLenNonzero (b : Byte) (c : ScanState) : ScanState × Event :=
  quiet (((c.count.bufAppend b).setRem b).setPhase .bodyFn)

/-- R135: FUNCTION, one logical byte whatever its value. -/
def rowBodyFn (b : Byte) (c : ScanState) : ScanState × Event := quiet (c.count.bufAppend b).takeLogical

/-- R136, `b = STUFF`: a marker byte is pending, `REM` unchanged. -/
def rowBodyMark0 (c : ScanState) : ScanState × Event := quiet ((c.count.bufAppend STUFF).setPhase .bodyEsc)

/-- R136, otherwise: one logical byte. -/
def rowBodyOther (b : Byte) (c : ScanState) : ScanState × Event := quiet (c.count.bufAppend b).takeLogical

/-- R137, first branch: the pair is one logical byte. -/
def rowBodyEscMark0 (c : ScanState) : ScanState × Event := quiet (c.count.bufAppend STUFF).takeLogical

/-- R137, second branch: a stuffing violation closes the candidate. -/
def rowBodyEscOther (b : Byte) (c : ScanState) : ScanState × Event := deliver (c.count.bufAppend b)

/-- R138: CHECKSUM, whatever its value. -/
def rowCksum (b : Byte) (c : ScanState) : ScanState × Event := deliver (c.count.bufAppend b)

/-- `SCANB` on the registers: the one row selected by `PHASE` and the byte (42_scanner.md R139, 30_encoding.md R76). -/
def scanStep (b : Byte) (c : ScanState) : ScanState × Event :=
  match c.phase with
  | .seek0 => if b = MARK0 then rowSeek0Mark0 c else rowSeek0Other c
  | .seek1 => if b = MARK1 then rowSeek1Mark1 c else if b = MARK0 then rowSeek1Mark0 c else rowSeek1Other c
  | .hdrStation => rowHdrStation b c
  | .hdrLen => if b = 0#8 then rowHdrLenZero c else rowHdrLenNonzero b c
  | .bodyFn => rowBodyFn b c
  | .body => if b = STUFF then rowBodyMark0 c else rowBodyOther b c
  | .bodyEsc => if b = STUFF then rowBodyEscMark0 c else rowBodyEscOther b c
  | .cksum => rowCksum b c

/-- `SCANB(b)` (42_scanner.md R130, R139). -/
def execScanb (b : Byte) (s : State) : Host.Outcome State Fault Refusal := .next (s.afterScan (scanStep b s.scan))

/-- `SCANR()` (42_scanner.md R141): the registers take the reset values, the event is `NONE`. -/
def execScanr (s : State) : Host.Outcome State Fault Refusal := .next (s.afterScan (quiet ScanState.reset))

/-- Row `SCANB.SEEK0.MARK0` (R131). -/
def execScanbSeek0Mark0 (s : State) : Host.Outcome State Fault Refusal := .next (s.afterScan (rowSeek0Mark0 s.scan))

/-- Row `SCANB.SEEK0.OTHER` (R131). The byte is discarded. -/
def execScanbSeek0Other (_b : Byte) (s : State) : Host.Outcome State Fault Refusal :=
  .next (s.afterScan (rowSeek0Other s.scan))

/-- Row `SCANB.SEEK1.MARK1` (R132). -/
def execScanbSeek1Mark1 (s : State) : Host.Outcome State Fault Refusal := .next (s.afterScan (rowSeek1Mark1 s.scan))

/-- Row `SCANB.SEEK1.MARK0` (R132). -/
def execScanbSeek1Mark0 (s : State) : Host.Outcome State Fault Refusal := .next (s.afterScan (rowSeek1Mark0 s.scan))

/-- Row `SCANB.SEEK1.OTHER` (R132). The byte is discarded. -/
def execScanbSeek1Other (_b : Byte) (s : State) : Host.Outcome State Fault Refusal :=
  .next (s.afterScan (rowSeek1Other s.scan))

/-- Row `SCANB.HDR_STATION.ANY` (R133). -/
def execScanbHdrStationAny (b : Byte) (s : State) : Host.Outcome State Fault Refusal :=
  .next (s.afterScan (rowHdrStation b s.scan))

/-- Row `SCANB.HDR_LEN.ZERO` (R134). -/
def execScanbHdrLenZero (s : State) : Host.Outcome State Fault Refusal := .next (s.afterScan (rowHdrLenZero s.scan))

/-- Row `SCANB.HDR_LEN.NONZERO` (R134). -/
def execScanbHdrLenNonzero (b : Byte) (s : State) : Host.Outcome State Fault Refusal :=
  .next (s.afterScan (rowHdrLenNonzero b s.scan))

/-- Row `SCANB.BODY_FN.ANY` (R135). -/
def execScanbBodyFnAny (b : Byte) (s : State) : Host.Outcome State Fault Refusal :=
  .next (s.afterScan (rowBodyFn b s.scan))

/-- Row `SCANB.BODY.MARK0` (R136). -/
def execScanbBodyMark0 (s : State) : Host.Outcome State Fault Refusal := .next (s.afterScan (rowBodyMark0 s.scan))

/-- Row `SCANB.BODY.OTHER` (R136). -/
def execScanbBodyOther (b : Byte) (s : State) : Host.Outcome State Fault Refusal :=
  .next (s.afterScan (rowBodyOther b s.scan))

/-- Row `SCANB.BODY_ESC.MARK0` (R137). -/
def execScanbBodyEscMark0 (s : State) : Host.Outcome State Fault Refusal :=
  .next (s.afterScan (rowBodyEscMark0 s.scan))

/-- Row `SCANB.BODY_ESC.OTHER` (R137). -/
def execScanbBodyEscOther (b : Byte) (s : State) : Host.Outcome State Fault Refusal :=
  .next (s.afterScan (rowBodyEscOther b s.scan))

/-- Row `SCANB.CKSUM.ANY` (R138). -/
def execScanbCksumAny (b : Byte) (s : State) : Host.Outcome State Fault Refusal := .next (s.afterScan (rowCksum b s.scan))

/-- A write of `PHASE` alone (00_scope.md R11; log 12). -/
def State.writePhase (p : Phase) (s : State) : State := s.afterScan (quiet (s.scan.setPhase p))

/-- Row `PHASE.SEEK0`: `PHASE <- SEEK0` (10_state.md R21, 00_scope.md R11). -/
def execPhaseSeek0 (s : State) : Host.Outcome State Fault Refusal := .next (s.writePhase .seek0)

/-- Row `PHASE.SEEK1`. -/
def execPhaseSeek1 (s : State) : Host.Outcome State Fault Refusal := .next (s.writePhase .seek1)

/-- Row `PHASE.HDR_STATION`. -/
def execPhaseHdrStation (s : State) : Host.Outcome State Fault Refusal := .next (s.writePhase .hdrStation)

/-- Row `PHASE.HDR_LEN`. -/
def execPhaseHdrLen (s : State) : Host.Outcome State Fault Refusal := .next (s.writePhase .hdrLen)

/-- Row `PHASE.BODY_FN`. -/
def execPhaseBodyFn (s : State) : Host.Outcome State Fault Refusal := .next (s.writePhase .bodyFn)

/-- Row `PHASE.BODY`. -/
def execPhaseBody (s : State) : Host.Outcome State Fault Refusal := .next (s.writePhase .body)

/-- Row `PHASE.BODY_ESC`. -/
def execPhaseBodyEsc (s : State) : Host.Outcome State Fault Refusal := .next (s.writePhase .bodyEsc)

/-- Row `PHASE.CKSUM`. -/
def execPhaseCksum (s : State) : Host.Outcome State Fault Refusal := .next (s.writePhase .cksum)

end Sys2Proof.Machine
end

