-- ==== Sys2Proof/Machine/Feed.lean ====
section
/-! DEFINITION. Chunks: `FEED` (42_scanner.md R144 to R147), the rows of its outcome, and the units on the wire, whose bytes arrive as one chunk.

A chunk is a sequence of steps, one byte each (00_scope.md R12): `exec` makes the first, `resume` the others. -/

namespace Sys2Proof.Machine

open Sys2Proof.Config

/-- The last lines of R145: no byte of the chunk completed a candidate. -/
def State.feedEnd (total used : Nat) (s : State) : State :=
  if total > 0 ∧ s.scan.phase = .seek0 then s.returnFeed (.garbage total) used
  else s.returnFeed .needMoreData used

/-- One step of `FEED`: the next turn of the loop of R145, which is one `SCANB` (00_scope.md R12).
The outcome is returned in the step of the last `SCANB`.
An empty chunk has no `SCANB`; its step returns at once (log 10). -/
def feedNext (total used : Nat) (bytes : List Byte) (s : State) : State :=
  match bytes with
  | [] => s.clearOut.finish.feedEnd total used
  | b :: rest =>
    let t := s.afterScan (scanStep b s.scan)
    match t.out.event with
    | .frameReady f => t.finish.returnFeed (.frameReady f) (used + 1)
    | .none =>
      match rest with
      | [] => t.finish.feedEnd total (used + 1)
      | c :: more => t.goOn (.feed total (used + 1) (c :: more))

/-- The first step of a chunk; `resume` makes the others. -/
def feedChunk (chunk : List Byte) (s : State) : State := feedNext chunk.length 0 chunk s

/-- The next step of what is running. -/
def resume (r : Running) (s : State) : State :=
  match r with
  | .feed total used rest => feedNext total used rest s
  | .decode raw expectFn => (s.returnDec (decodeFrame raw expectFn)).finish

/-- `FEED(chunk)` (42_scanner.md R144): its first step. -/
def execFeed (chunk : List Byte) (s : State) : Host.Outcome State Fault Refusal := .next (feedChunk chunk s)

/-- Row `NeedMoreData` (42_scanner.md R145, R146; log 12). -/
def execNeedMoreData (used : Nat) (s : State) : Host.Outcome State Fault Refusal :=
  .next (s.clearOut.returnFeed .needMoreData used)

/-- Row `FrameReady` (42_scanner.md R145, R146; log 12). -/
def execFrameReady (f : List Byte) (used : Nat) (s : State) : Host.Outcome State Fault Refusal :=
  .next (s.clearOut.returnFeed (.frameReady f) used)

/-- Row `Garbage` (42_scanner.md R145, R146; log 12): all `k` bytes were accepted. -/
def execGarbage (k : Nat) (s : State) : Host.Outcome State Fault Refusal :=
  .next (s.clearOut.returnFeed (.garbage k) k)

/-- Row `FRAME`: the frame's bytes arrive in wire order (30_encoding.md R60, 20_memory.md R43; log 11). -/
def execFrame (station length function : Byte) (region : List Byte) (checksum : Byte) (s : State) :
    Host.Outcome State Fault Refusal :=
  .next (feedChunk (frameBytes station length function region checksum) s)

/-- Row `MARK`: the two marker bytes arrive (30_encoding.md R61; log 11). -/
def execMark (s : State) : Host.Outcome State Fault Refusal := .next (feedChunk [MARK0, MARK1] s)

/-- Row `STUFFPAIR`: a doubled marker byte arrives (30_encoding.md R67; log 11). -/
def execStuffPair (s : State) : Host.Outcome State Fault Refusal := .next (feedChunk [STUFF, STUFF] s)

end Sys2Proof.Machine
end

