-- ==== Sys2Proof/Machine/Dispatch.lean ====
section
/-! DEFINITION. One arm per row of spec/opcode_table.json. -/

namespace Sys2Proof.Machine

def exec (i : Instr) (s : State) : Host.Outcome State Fault Refusal :=
  match i with
  | .frame station length function region checksum => Sys2Proof.Machine.execFrame station length function region checksum s
  | .mark => Sys2Proof.Machine.execMark s
  | .stuffPair => Sys2Proof.Machine.execStuffPair s
  | .enc station function payload => Sys2Proof.Machine.execEnc station function payload s
  | .dec raw expectFn => Sys2Proof.Machine.execDec raw expectFn s
  | .scanb b => Sys2Proof.Machine.execScanb b s
  | .scanr => Sys2Proof.Machine.execScanr s
  | .feed chunk => Sys2Proof.Machine.execFeed chunk s
  | .roundtrip station function payload => Sys2Proof.Machine.execRoundtrip station function payload s
  | .scanbSeek0Mark0 => Sys2Proof.Machine.execScanbSeek0Mark0 s
  | .scanbSeek0Other b => Sys2Proof.Machine.execScanbSeek0Other b s
  | .scanbSeek1Mark1 => Sys2Proof.Machine.execScanbSeek1Mark1 s
  | .scanbSeek1Mark0 => Sys2Proof.Machine.execScanbSeek1Mark0 s
  | .scanbSeek1Other b => Sys2Proof.Machine.execScanbSeek1Other b s
  | .scanbHdrStationAny b => Sys2Proof.Machine.execScanbHdrStationAny b s
  | .scanbHdrLenZero => Sys2Proof.Machine.execScanbHdrLenZero s
  | .scanbHdrLenNonzero b => Sys2Proof.Machine.execScanbHdrLenNonzero b s
  | .scanbBodyFnAny b => Sys2Proof.Machine.execScanbBodyFnAny b s
  | .scanbBodyMark0 => Sys2Proof.Machine.execScanbBodyMark0 s
  | .scanbBodyOther b => Sys2Proof.Machine.execScanbBodyOther b s
  | .scanbBodyEscMark0 => Sys2Proof.Machine.execScanbBodyEscMark0 s
  | .scanbBodyEscOther b => Sys2Proof.Machine.execScanbBodyEscOther b s
  | .scanbCksumAny b => Sys2Proof.Machine.execScanbCksumAny b s
  | .ok record => Sys2Proof.Machine.execOk record s
  | .malformedFrame => Sys2Proof.Machine.execMalformedFrame s
  | .checksumMismatch => Sys2Proof.Machine.execChecksumMismatch s
  | .unexpectedFunctionCode => Sys2Proof.Machine.execUnexpectedFunctionCode s
  | .needMoreData used => Sys2Proof.Machine.execNeedMoreData used s
  | .frameReady f used => Sys2Proof.Machine.execFrameReady f used s
  | .garbage k => Sys2Proof.Machine.execGarbage k s
  | .phaseSeek0 => Sys2Proof.Machine.execPhaseSeek0 s
  | .phaseSeek1 => Sys2Proof.Machine.execPhaseSeek1 s
  | .phaseHdrStation => Sys2Proof.Machine.execPhaseHdrStation s
  | .phaseHdrLen => Sys2Proof.Machine.execPhaseHdrLen s
  | .phaseBodyFn => Sys2Proof.Machine.execPhaseBodyFn s
  | .phaseBody => Sys2Proof.Machine.execPhaseBody s
  | .phaseBodyEsc => Sys2Proof.Machine.execPhaseBodyEsc s
  | .phaseCksum => Sys2Proof.Machine.execPhaseCksum s

end Sys2Proof.Machine
end

