-- ==== Sys2Proof/Machine/Fetch.lean ====
section
/-! DEFINITION. What `step` and `withFetchWord` need of the operation port. -/

namespace Sys2Proof.Machine

open Sys2Proof.Config

/-- The next packet of the operation port, taken off it. -/
def takePacket (s : State) : Option (Packet × State) :=
  match s.queue with
  | [] => none
  | p :: rest => some (p, { s with queue := rest })

/-- What happens when nothing is issued: the block keeps its state (60_exceptions.md R182) and its outputs are gone (R176; log 3). -/
def idle (s : State) : State := s.clearOut

/-- `BUF` holding these bytes from address 0 on. -/
def Memory.ofBytes (bs : List Byte) : Memory :=
  (bs.zipIdx).foldl (fun m p => m.write p.2 p.1) []

/-- A candidate of the fewest bytes that a scanner in a phase can hold (10_state.md R25), and its `REM`. -/
def samplePhase : Phase → List Byte × Byte
  | .seek0 => ([], 0)
  | .seek1 => ([MARK0], 0)
  | .hdrStation => ([MARK0, MARK1], 0)
  | .hdrLen => ([MARK0, MARK1, 0], 0)
  | .bodyFn => ([MARK0, MARK1, 0, 1], 1)
  | .body => ([MARK0, MARK1, 0, 2, 0], 1)
  | .bodyEsc => ([MARK0, MARK1, 0, 2, 0, STUFF], 1)
  | .cksum => ([MARK0, MARK1, 0, 0], 0)

/-- The scanner in the phase a dispatch word names, so that the word's row is the one that `SCANB` selects (log 18).
A scanner already in that phase is left as it is. -/
def ScanState.enter (p : Phase) (c : ScanState) : ScanState :=
  if c.phase = p then c
  else
    { c with
      phase := p
      buf := Memory.ofBytes (samplePhase p).1
      blen := (samplePhase p).1.length
      rem := (samplePhase p).2 }

/-- The phase of a code (10_state.md R21). -/
def phaseOfCode (code : Byte) : Option Phase :=
  [Phase.seek0, .seek1, .hdrStation, .hdrLen, .bodyFn, .body, .bodyEsc, .cksum].find?
    fun p => p.code.setWidth 8 = code

/-- The scanner a packet needs: for a dispatch word, in the word's phase. -/
def ScanState.enterFor (p : Packet) (c : ScanState) : ScanState :=
  match p.format, p.bytes with
  | .scanDispatch, code :: _ =>
    match phaseOfCode code with
    | some ph => c.enter ph
    | none => c
  | _, _ => c

/-- The packet placed where `step` fetches its next instruction, with nothing running before it. -/
def State.placePacket (s : State) (p : Packet) : State :=
  { s with scan := s.scan.enterFor p, queue := p :: s.queue, running := none }

end Sys2Proof.Machine
end

