-- ==== Sys2Proof/Machine/Step.lean ====
section
/-! DEFINITION. One step: go on with what is running, or take the operation issued first, decode it and execute it (00_scope.md R12). -/

namespace Sys2Proof.Machine

/-- One step of the machine.
A pseudo-operation makes all its steps before the next operation is taken, since operations are issued one at a time
(70_reset_and_hazards.md R193). With nothing running and nothing issued the block idles. -/
def step (s : State) : Host.Outcome State Fault Refusal :=
  match s.running with
  | some r => .next (resume r s)
  | none =>
    match takePacket s with
    | none => .next (idle s)
    | some (p, t) =>
      match decode p with
      | .ok i => exec i t
      | .error why => .fault (.undefinedPacket why)

/-- The state whose next step runs the instruction of a word of spec/opcode_table.json (log 2, log 14, log 18). -/
def State.withFetchWord (s : State) (nbits w : Nat) : State := s.placePacket (tablePacket nbits w)

end Sys2Proof.Machine
end

