-- ==== Sys2Proof/Machine/Instances.lean ====
section
/-! DEFINITION. Several connections: one instance each, side by side, sharing nothing (00_scope.md R6, 10_state.md R31, 60_exceptions.md R180). -/

namespace Sys2Proof.Machine

/-- The instances of a system. An index is the environment's name for one: instances have no identifiers of their own (R180). -/
abbrev Instances := List State

/-- One step of instance `k`; every other instance stays as it is. Which instance steps next is the environment's choice. -/
def stepInstance (k : Nat) (ss : Instances) : Host.Outcome Instances Fault Refusal :=
  match ss[k]? with
  | none => .fault .noInstance
  | some s =>
    match step s with
    | .next t => .next (ss.set k t)
    | .fault r => .fault r
    | .refused r => .refused r

/-- A new instance comes into existence in the reset state (70_reset_and_hazards.md R190 (a)). -/
def addInstance (ss : Instances) : Instances := ss ++ [State.reset]

end Sys2Proof.Machine
end

