-- ==== Sys2Proof/Safety.lean ====
section
/-! DEFINITION. What a reachable state satisfies (10_state.md R25), what a controller may issue, and the streams that statements speak of. -/

namespace Sys2Proof.Machine

open Sys2Proof.Config

/-- The code spaces whose packets a controller or the transport issues.
The others code pieces of the operations: the block runs them itself (log 12, log 13). -/
def Format.issuable : Format → Bool
  | .wire => true
  | .op => true
  | .pseudo => true
  | .scanDispatch => false
  | .decStatus => false
  | .feedOutcome => false
  | .phaseCode => false

/-- A packet that a controller or the transport may put at the operation port. -/
def issuable (p : Packet) : Bool := Format.issuable p.format && (decode p).toOption.isSome

/-- The row of a phase in the table of 10_state.md R25, over `BUF[0..BLEN-1]` and `REM`. -/
def PhaseRow : Phase → List Byte → Byte → Prop
  | .seek0, bytes, rem => bytes = [] ∧ rem = 0#8
  | .seek1, bytes, rem => bytes = [MARK0] ∧ rem = 0#8
  | .hdrStation, bytes, rem => bytes = [MARK0, MARK1] ∧ rem = 0#8
  | .hdrLen, bytes, rem => (∃ s, bytes = [MARK0, MARK1, s]) ∧ rem = 0#8
  | .bodyFn, bytes, rem => (∃ s, bytes = [MARK0, MARK1, s, rem]) ∧ rem ≠ 0#8
  | .body, bytes, rem =>
    ∃ s l f region p, bytes = frameHead s l f region ∧ unstuff region = some p ∧
      rem ≠ 0#8 ∧ l.toNat = 1 + p.length + rem.toNat
  | .bodyEsc, bytes, rem =>
    ∃ s l f region p, bytes = frameHead s l f region ++ [STUFF] ∧ unstuff region = some p ∧
      rem ≠ 0#8 ∧ l.toNat = 1 + p.length + rem.toNat
  | .cksum, bytes, rem =>
    rem = 0#8 ∧ ((∃ s, bytes = [MARK0, MARK1, s, 0#8]) ∨
      ∃ s l f region p, bytes = frameHead s l f region ∧ unstuff region = some p ∧ l.toNat = 1 + p.length)

/-- The scanner's invariant: `BUF` is canonical and lists nothing at or above `BLEN`, and the row of the phase holds (10_state.md R25). -/
structure ScanState.Inv (c : ScanState) : Prop where
  canonical : c.buf.wf
  belowBlen : ∀ cell ∈ c.buf, cell.1 < c.blen
  row : PhaseRow c.phase c.bytes c.rem

/-- What runs has a byte to go on with, and `used` and these bytes make up the chunk. -/
def Running.wf : Running → Prop
  | .feed total used rest => rest ≠ [] ∧ used + rest.length = total
  | .decode _ _ => True

/-- The machine's invariant: the scanner's, only operations and wire units are issued, and what runs is well-formed. -/
structure State.Inv (s : State) : Prop where
  scan : s.scan.Inv
  running : ∀ r, s.running = some r → r.wf
  issued : ∀ p ∈ s.queue, issuable p = true

/-- The table of 42_scanner.md R143: `PHASE` after a step, by `PHASE` before, the class of the byte, the byte, and `REM` before. -/
def transition : Phase → ByteClass → Byte → Byte → Phase
  | .seek0, .isMark0, _, _ => .seek1
  | .seek0, .isMark1, _, _ => .seek0
  | .seek0, .other, _, _ => .seek0
  | .seek1, .isMark0, _, _ => .seek1
  | .seek1, .isMark1, _, _ => .hdrStation
  | .seek1, .other, _, _ => .seek0
  | .hdrStation, _, _, _ => .hdrLen
  | .hdrLen, .isMark0, _, _ => .bodyFn
  | .hdrLen, .isMark1, _, _ => .bodyFn
  | .hdrLen, .other, b, _ => if b = 0#8 then .cksum else .bodyFn
  | .bodyFn, _, _, rem => if rem = 1#8 then .cksum else .body
  | .body, .isMark0, _, _ => .bodyEsc
  | .body, .isMark1, _, rem => if rem = 1#8 then .cksum else .body
  | .body, .other, _, rem => if rem = 1#8 then .cksum else .body
  | .bodyEsc, .isMark0, _, rem => if rem = 1#8 then .cksum else .body
  | .bodyEsc, .isMark1, _, _ => .seek0
  | .bodyEsc, .other, _, _ => .seek0
  | .cksum, _, _, _ => .seek0

/-- The state `s` with these scanner registers, this event and no other output. -/
def State.scanned (s : State) (c : ScanState) (e : Event) : State :=
  { s with scan := c, out := ⟨e, none, none, none⟩ }

/-- The bytes of a stream issued as `SCANB` one after another: the final state and the delivered frames in order. -/
def scanStream : List Byte → State → Option (State × List (List Byte))
  | [], s => some (s, [])
  | b :: rest, s =>
    match exec (.scanb b) s with
    | .next t => (scanStream rest t).map fun r => (r.1, t.out.event.frames ++ r.2)
    | .fault _ => none
    | .refused _ => none

/-- How many steps end what is running, if `FEED` meets no frame before its last byte. -/
def State.stepsLeft (s : State) : Nat :=
  match s.running with
  | none => 0
  | some (.feed _ _ rest) => max 1 rest.length
  | some (.decode _ _) => 1

/-- Steps until nothing runs, at most `fuel`: the final state and the frames delivered from `s` on, those of `s` among them. -/
def complete : Nat → State → Option (State × List (List Byte))
  | 0, s => if s.running = none then some (s, s.out.event.frames) else none
  | fuel + 1, s =>
    if s.running = none then some (s, s.out.event.frames)
    else
      match step s with
      | .next t => (complete fuel t).map fun r => (r.1, s.out.event.frames ++ r.2)
      | .fault _ => none
      | .refused _ => none

/-- An instruction with all its steps: its first by `exec`, the others by `step`. -/
def runWhole (i : Instr) (s : State) : Option (State × List (List Byte)) :=
  match exec i s with
  | .next t => complete t.stepsLeft t
  | .fault _ => none
  | .refused _ => none

/-- One chunk issued as `FEED`, and its unused suffix again while there is one (42_scanner.md R148).
`fuel` bounds the number of calls; `|chunk| + 1` is enough, since a call that leaves a suffix accepts a byte. -/
def feedWhole : Nat → List Byte → State → Option (State × List (List Byte))
  | 0, _, _ => none
  | fuel + 1, chunk, s =>
    match runWhole (.feed chunk) s with
    | some (t, frames) =>
      match t.out.feed with
      | some r =>
        if r.used < chunk.length then
          (feedWhole fuel (chunk.drop r.used) t).map fun q => (q.1, frames ++ q.2)
        else some (t, frames)
      | none => none
    | none => none

/-- A stream cut into chunks, each fed whole before the next (42_scanner.md R148). -/
def feedChunks : List (List Byte) → State → Option (State × List (List Byte))
  | [], s => some (s, [])
  | chunk :: rest, s =>
    match feedWhole (chunk.length + 1) chunk s with
    | some r => (feedChunks rest r.1).map fun q => (q.1, r.2 ++ q.2)
    | none => none

/-- A run of `n` steps that no fault and no refusal ends: what a safe run is. -/
def SafeRun (n : Nat) (s : State) : Prop := ∃ t : State, Sys2Proof.core.run n s = .next t

end Sys2Proof.Machine
end

