-- ==== Sys2Proof/Certificates/Slice0/Obligations.lean ====
section
/-! DEFINITION. The statements for the provers. Each docstring names the rule it formalises; where the spec marks that rule as its own decision or derivation, or the model made a choice, it says so. -/

open Sys2Proof Sys2Proof.Machine Sys2Proof.Config

/-! ## Reset -/

/-- 10_state.md R30 (spec decision D17): after reset the scanner seeks, holds nothing and has counted nothing; the event is `NONE`. -/
def Obligations.ResetRegistersAreClear : Prop :=
  State.reset.scan.phase = .seek0 ∧ State.reset.scan.blen = 0 ∧ State.reset.scan.bytes = [] ∧
    State.reset.scan.rem = 0 ∧ State.reset.scan.consumed = 0 ∧ State.reset.out.event = .none

/-! ## The encoder and the decoder -/

/-- 40_encode.md R90: `sum8` is the sum modulo 256 of the bytes, built byte by byte, additive over concatenation, and independent of
the order of summation. -/
def Obligations.Sum8IsModularSum : Prop :=
  sum8 [] = 0 ∧
  (∀ (s : List Byte) (b : Byte), sum8 (s ++ [b]) = add8 (sum8 s) b) ∧
  (∀ s : List Byte, (sum8 s).toNat = (s.map BitVec.toNat).sum % 256) ∧
  (∀ s t : List Byte, sum8 (s ++ t) = add8 (sum8 s) (sum8 t)) ∧
  (∀ s t : List Byte, s.Perm t → sum8 s = sum8 t) ∧
  sum8 [0xff, 0x01] = 0 ∧ sum8 [0x80, 0x80] = 0

/-- 40_encode.md R92 (a) to (d) and (f) (derived there from R91): the laws of `stuff`.
(d) is said of every maximal run of `STUFF` bytes: its length is even. That `STUFF` is never followed by another byte holds of the
marker bytes read in pairs from the left (log 23): after a whole number of pairs and single bytes, a `STUFF` is followed by a
`STUFF`. -/
def Obligations.StuffingLaws : Prop :=
  (∀ p : List Byte, (stuff p).length = p.length + p.count STUFF) ∧
  (∀ p q : List Byte, stuff (p ++ q) = stuff p ++ stuff q) ∧
  (∀ p q : List Byte, stuff p = stuff q → p = q) ∧
  (∀ (p before after : List Byte) (k : Nat), stuff p = before ++ List.replicate k STUFF ++ after →
    before.getLast? ≠ some STUFF → after.head? ≠ some STUFF → k % 2 = 0) ∧
  (∀ p q before after : List Byte, stuff p = before ++ STUFF :: after → unstuff before = some q →
    after.head? = some STUFF) ∧
  (∀ p : List Byte, sum8 (stuff p) = add8 (sum8 p) (BitVec.ofNat 8 (16 * p.count STUFF)))

/-- 41_decode.md R111 and 40_encode.md R92 (e) (derived there): `unstuff` inverts `stuff`, nothing else de-stuffs to a payload, and
it fails exactly when some maximal run of `STUFF` bytes has odd length. -/
def Obligations.UnstuffInvertsStuff : Prop :=
  (∀ p : List Byte, unstuff (stuff p) = some p) ∧
  (∀ r p : List Byte, unstuff r = some p → r = stuff p) ∧
  (∀ r : List Byte, unstuff r = none ↔
    ∃ (before after : List Byte) (k : Nat), r = before ++ List.replicate k STUFF ++ after ∧
      before.getLast? ≠ some STUFF ∧ after.head? ≠ some STUFF ∧ k % 2 = 1)

/-- 40_encode.md R94: `ENC` completes on every input. Up to 254 payload bytes it returns the frame, of the length the rule states.
Beyond it the port shows `refuse` and the block goes on (the model's reading of R97 and 60_exceptions.md R174, log 9).
Nothing but its port is written. -/
def Obligations.EncBuildsFrameOrRefuses : Prop :=
  ∀ (station function : Byte) (payload : List Byte) (s : State),
    (payload.length ≤ MAX_PAYLOAD →
      ∃ head : List Byte,
        head = [MARK0, MARK1, station, BitVec.ofNat 8 (1 + payload.length), function] ++ stuff payload ∧
        exec (.enc station function payload) s =
          .next { s with out := ⟨.none, some (.frame (head ++ [sum8 head])), none, none⟩ } ∧
        (head ++ [sum8 head]).length = 6 + payload.length + payload.count STUFF) ∧
    (payload.length > MAX_PAYLOAD →
      exec (.enc station function payload) s = .next { s with out := ⟨.none, some .refuse, none, none⟩ })

/-- 40_encode.md R99 (a), (b), 30_encoding.md R64, R69: what every frame `ENC` returns looks like. -/
def Obligations.EncodedFrameShape : Prop :=
  ∀ (station function : Byte) (payload F : List Byte) (s t : State),
    exec (.enc station function payload) s = .next t → t.out.enc = some (.frame F) →
      F.take 2 = [MARK0, MARK1] ∧ F.getLast? = some (sum8 F.dropLast) ∧
      (byteAt F 3).toNat = 1 + payload.length ∧ MIN_FRAME ≤ F.length ∧ F.length ≤ MAX_FRAME

/-- 41_decode.md R114: `DEC` completes on every buffer; its checks are made in the rule's order and the first that fails decides;
nothing but its port is written. -/
def Obligations.DecReportsFirstFailingCheck : Prop :=
  ∀ (raw : List Byte) (expectFn : Byte) (s : State), ∃ d : DecOut,
    exec (.dec raw expectFn) s = .next { s with out := ⟨.none, none, some d, none⟩ } ∧
    (raw.length < 5 → d = .error .malformedFrame) ∧
    (5 ≤ raw.length → raw.getLast? ≠ some (sum8 raw.dropLast) → d = .error .checksumMismatch) ∧
    (5 ≤ raw.length → raw.getLast? = some (sum8 raw.dropLast) →
      (raw.take 2 ≠ [MARK0, MARK1] → d = .error .malformedFrame) ∧
      (raw.length = 5 → d = .error .malformedFrame) ∧
      (raw.take 2 = [MARK0, MARK1] → 6 ≤ raw.length →
        (unstuff (raw.drop 5).dropLast = none → d = .error .malformedFrame) ∧
        ∀ payload, unstuff (raw.drop 5).dropLast = some payload →
          ∀ station length function, raw[2]? = some station → raw[3]? = some length → raw[4]? = some function →
            (length.toNat ≠ 1 + payload.length → d = .error .malformedFrame) ∧
            (length.toNat = 1 + payload.length → function ≠ expectFn → d = .error .unexpectedFunctionCode) ∧
            (length.toNat = 1 + payload.length → function = expectFn →
              d = .ok ⟨station, function, payload, sum8 raw.dropLast⟩)))

/-- 41_decode.md R122 (derived there): the buffers `DEC` accepts are exactly the frames `ENC` returns, with the operands back. -/
def Obligations.DecAcceptsExactlyEncodedFrames : Prop :=
  ∀ (raw : List Byte) (expectFn : Byte) (r : ResponseFrame) (s : State),
    (∃ t, exec (.dec raw expectFn) s = .next t ∧ t.out.dec = some (.ok r)) ↔
      r.function = expectFn ∧ raw.getLast? = some r.checksum ∧
        ∃ t, exec (.enc r.station r.function r.payload) s = .next t ∧ t.out.enc = some (.frame raw)

/-- 41_decode.md R125 (derived there), 40_encode.md R99 (d): decoding an encoded frame gives the operands back.
`ROUNDTRIP` does it in its two steps, `ENC` and then `DEC` (00_scope.md R12, 30_encoding.md R77; which step shows which port: log 15). -/
def Obligations.RoundTripReturnsOperands : Prop :=
  ∀ (station function : Byte) (payload : List Byte) (s : State), payload.length ≤ MAX_PAYLOAD →
    ∃ (F : List Byte) (t u : State) (checksum : Byte),
      exec (.enc station function payload) s = .next t ∧ t.out.enc = some (.frame F) ∧
      F.getLast? = some checksum ∧
      exec (.dec F function) t =
        .next { s with out := ⟨.none, none, some (.ok ⟨station, function, payload, checksum⟩), none⟩ } ∧
      exec (.roundtrip station function payload) s = .next u ∧
      u = { s with out := ⟨.none, some (.frame F), none, none⟩, running := some (.decode F function) } ∧
      step u =
        .next { s with
          out := ⟨.none, none, some (.ok ⟨station, function, payload, checksum⟩), none⟩, running := none }

/-- The model's choice (log 15): where `ENC` refuses, `ROUNDTRIP` ends and issues no `DEC`. -/
def Obligations.RoundTripStopsAtRefusal : Prop :=
  ∀ (station function : Byte) (payload : List Byte) (s : State), payload.length > MAX_PAYLOAD →
    exec (.roundtrip station function payload) s =
      .next { s with out := ⟨.none, some .refuse, none, none⟩, running := none }

/-- 41_decode.md R124 (derived there): one inverted bit anywhere in a well-formed frame is reported as `ChecksumMismatch`. -/
def Obligations.SingleBitFlipIsChecksumMismatch : Prop :=
  ∀ (F : List Byte) (e e' : Byte) (r : ResponseFrame) (s t : State),
    exec (.dec F e) s = .next t → t.out.dec = some (.ok r) →
    ∀ i, i < F.length → ∀ k, k < 8 →
      exec (.dec (F.modify i (· ^^^ (1#8 <<< k))) e') s =
        .next { s with out := ⟨.none, none, some (.error .checksumMismatch), none⟩ }

/-- 41_decode.md R127 (f) (derived there): a byte after a good frame is not ignored. -/
def Obligations.ExtraByteIsNeverAccepted : Prop :=
  ∀ (station function e extra : Byte) (payload F : List Byte) (s t : State),
    exec (.enc station function payload) s = .next t → t.out.enc = some (.frame F) →
      ∃ u, exec (.dec (F ++ [extra]) e) s = .next u ∧
        (u.out.dec = some (.error .checksumMismatch) ∨ u.out.dec = some (.error .malformedFrame))

/-- The status rows as the primitives `raise E` and `return OK` (60_exceptions.md section 1; the model's reading, log 12):
the port shows the status, nothing else is written. -/
def Obligations.StatusRowsWriteOnlyTheStatus : Prop :=
  ∀ s : State,
    exec .malformedFrame s = .next { s with out := ⟨.none, none, some (.error .malformedFrame), none⟩ } ∧
    exec .checksumMismatch s = .next { s with out := ⟨.none, none, some (.error .checksumMismatch), none⟩ } ∧
    exec .unexpectedFunctionCode s =
      .next { s with out := ⟨.none, none, some (.error .unexpectedFunctionCode), none⟩ } ∧
    ∀ r : ResponseFrame, exec (.ok r) s = .next { s with out := ⟨.none, none, some (.ok r), none⟩ }

/-! ## Outputs and frames -/

/-- 10_state.md R28, 60_exceptions.md R175 (its last sentence): outputs carry no memory of earlier steps, so an instruction does the
same after any other as if that one had never been issued, as far as only its outputs differ; and so does a step. -/
def Obligations.OutputsCarryNoMemory : Prop :=
  ∀ s t : State, s.scan = t.scan → s.queue = t.queue → s.running = t.running →
    (∀ i : Instr, exec i s = exec i t) ∧ step s = step t

/-- 10_state.md R26, 60_exceptions.md R172, R174: `ENC` and `DEC` write no register of the scanner and no byte of `BUF`, and produce
no event. The same of both steps of `ROUNDTRIP` and of the rows of the status and the outcome is the model's reading of those rows
(log 15, log 12). -/
def Obligations.CodecLeavesScannerAlone : Prop :=
  (∀ (i : Instr),
    ((∃ st f p, i = .enc st f p) ∨ (∃ raw e, i = .dec raw e) ∨
      (∃ r, i = .ok r) ∨ i = .malformedFrame ∨ i = .checksumMismatch ∨ i = .unexpectedFunctionCode ∨
      (∃ n, i = .needMoreData n) ∨ (∃ f n, i = .frameReady f n) ∨ (∃ k, i = .garbage k)) →
    ∀ s : State, ∃ t, exec i s = .next t ∧ t.scan = s.scan ∧ t.queue = s.queue ∧ t.running = s.running ∧
      t.out.event = .none ∧ ∀ a, t.scan.buf.read a = s.scan.buf.read a) ∧
  (∀ (station function : Byte) (payload : List Byte) (s : State),
    ∃ t, exec (.roundtrip station function payload) s = .next t ∧ t.scan = s.scan ∧ t.queue = s.queue ∧
      t.out.event = .none ∧ ∀ a, t.scan.buf.read a = s.scan.buf.read a) ∧
  ∀ (raw : List Byte) (expectFn : Byte) (s : State), s.running = some (.decode raw expectFn) →
    ∃ t, step s = .next t ∧ t.scan = s.scan ∧ t.queue = s.queue ∧ t.running = none ∧
      t.out.event = .none ∧ ∀ a, t.scan.buf.read a = s.scan.buf.read a

/-- The outcome rows as the primitive `return (outcome, used)` (42_scanner.md section 2; the model's reading, log 12). -/
def Obligations.OutcomeRowsReturnTheirOutcome : Prop :=
  ∀ s : State,
    (∀ n, exec (.needMoreData n) s = .next { s with out := ⟨.none, none, none, some ⟨.needMoreData, n⟩⟩ }) ∧
    (∀ f n, exec (.frameReady f n) s = .next { s with out := ⟨.none, none, none, some ⟨.frameReady f, n⟩⟩ }) ∧
    ∀ k, exec (.garbage k) s = .next { s with out := ⟨.none, none, none, some ⟨.garbage k, k⟩⟩ }

/-- The phase rows as the primitive `PHASE <- p` (00_scope.md section 6; the model's reading, log 12): only `PHASE` is written. -/
def Obligations.PhaseRowsWriteOnlyPhase : Prop :=
  ∀ s : State,
    exec .phaseSeek0 s = .next (s.scanned { s.scan with phase := .seek0 } .none) ∧
    exec .phaseSeek1 s = .next (s.scanned { s.scan with phase := .seek1 } .none) ∧
    exec .phaseHdrStation s = .next (s.scanned { s.scan with phase := .hdrStation } .none) ∧
    exec .phaseHdrLen s = .next (s.scanned { s.scan with phase := .hdrLen } .none) ∧
    exec .phaseBodyFn s = .next (s.scanned { s.scan with phase := .bodyFn } .none) ∧
    exec .phaseBody s = .next (s.scanned { s.scan with phase := .body } .none) ∧
    exec .phaseBodyEsc s = .next (s.scanned { s.scan with phase := .bodyEsc } .none) ∧
    exec .phaseCksum s = .next (s.scanned { s.scan with phase := .cksum } .none)

/-! ## The scanner, phase by phase -/

/-- 42_scanner.md R131: phase `SEEK0`. -/
def Obligations.SeekingHoldsFirstMarkerByte : Prop :=
  ∀ s : State, s.scan.phase = .seek0 →
    exec (.scanb MARK0) s = .next (s.scanned
      { s.scan with
        phase := .seek1, buf := s.scan.buf.write s.scan.blen MARK0, blen := s.scan.blen + 1,
        consumed := s.scan.consumed + 1 } .none) ∧
    ∀ b, b ≠ MARK0 →
      exec (.scanb b) s = .next (s.scanned { s.scan with consumed := s.scan.consumed + 1 } .none)

/-- 42_scanner.md R132 (derived there from R131): phase `SEEK1`, its three lines. -/
def Obligations.SeekingCompletesOrDropsMarker : Prop :=
  ∀ s : State, s.scan.phase = .seek1 →
    exec (.scanb MARK1) s = .next (s.scanned
      { s.scan with
        phase := .hdrStation, buf := s.scan.buf.write s.scan.blen MARK1, blen := s.scan.blen + 1,
        consumed := s.scan.consumed + 1 } .none) ∧
    exec (.scanb MARK0) s = .next (s.scanned { s.scan with consumed := s.scan.consumed + 1 } .none) ∧
    ∀ b, b ≠ MARK1 → b ≠ MARK0 →
      exec (.scanb b) s = .next (s.scanned
        { s.scan with phase := .seek0, buf := [], blen := 0, consumed := s.scan.consumed + 1 } .none)

/-- 42_scanner.md R133: phase `HDR_STATION`, whatever the byte. -/
def Obligations.StationIsStored : Prop :=
  ∀ (s : State) (b : Byte), s.scan.phase = .hdrStation →
    exec (.scanb b) s = .next (s.scanned
      { s.scan with
        phase := .hdrLen, buf := s.scan.buf.write s.scan.blen b, blen := s.scan.blen + 1,
        consumed := s.scan.consumed + 1 } .none)

/-- 42_scanner.md R134 (the case `b = 0` is spec decision D9): phase `HDR_LEN`. -/
def Obligations.LengthLoadsRemaining : Prop :=
  ∀ (s : State) (b : Byte), s.scan.phase = .hdrLen →
    exec (.scanb b) s = .next (s.scanned
      { phase := if b = 0 then .cksum else .bodyFn, buf := s.scan.buf.write s.scan.blen b,
        blen := s.scan.blen + 1, rem := b, consumed := s.scan.consumed + 1 } .none)

/-- 42_scanner.md R135 (spec decision D3): phase `BODY_FN`, whatever the byte, `10` included.
`REM = 0` is a state no run reaches (10_state.md R25): the step still completes, with a value of `REM` that is free (log 6). -/
def Obligations.FunctionIsOneLogicalByte : Prop :=
  ∀ (s : State) (b : Byte), s.scan.phase = .bodyFn →
    ∃ v : Byte, (s.scan.rem ≠ 0 → v = s.scan.rem - 1) ∧
      exec (.scanb b) s = .next (s.scanned
        { phase := if v = 0 then .cksum else .body, buf := s.scan.buf.write s.scan.blen b,
          blen := s.scan.blen + 1, rem := v, consumed := s.scan.consumed + 1 } .none)

/-- 42_scanner.md R136: phase `BODY`. The rule applies with `REM >= 1`; at 0 the value of `REM` is free (log 6). -/
def Obligations.BodyByteOrPendingMarker : Prop :=
  ∀ s : State, s.scan.phase = .body →
    exec (.scanb STUFF) s = .next (s.scanned
      { s.scan with
        phase := .bodyEsc, buf := s.scan.buf.write s.scan.blen STUFF, blen := s.scan.blen + 1,
        consumed := s.scan.consumed + 1 } .none) ∧
    ∀ b, b ≠ STUFF → ∃ v : Byte, (s.scan.rem ≠ 0 → v = s.scan.rem - 1) ∧
      exec (.scanb b) s = .next (s.scanned
        { phase := if v = 0 then .cksum else .body, buf := s.scan.buf.write s.scan.blen b,
          blen := s.scan.blen + 1, rem := v, consumed := s.scan.consumed + 1 } .none)

/-- 42_scanner.md R137 (its second branch is spec decision D8): phase `BODY_ESC`.
The rule applies with `REM >= 1`; at 0 the value of `REM` after a pair is free (log 6). -/
def Obligations.PairCountsOnceOrClosesCandidate : Prop :=
  ∀ s : State, s.scan.phase = .bodyEsc →
    (∃ v : Byte, (s.scan.rem ≠ 0 → v = s.scan.rem - 1) ∧
      exec (.scanb STUFF) s = .next (s.scanned
        { phase := if v = 0 then .cksum else .body, buf := s.scan.buf.write s.scan.blen STUFF,
          blen := s.scan.blen + 1, rem := v, consumed := s.scan.consumed + 1 } .none)) ∧
    ∀ b, b ≠ STUFF →
      exec (.scanb b) s = .next (s.scanned
        { phase := .seek0, buf := [], blen := 0, rem := 0, consumed := s.scan.consumed + 1 }
        (.frameReady (s.scan.bytes ++ [b])))

/-- 42_scanner.md R138: phase `CKSUM`: any byte completes the candidate. -/
def Obligations.ChecksumByteDelivers : Prop :=
  ∀ (s : State) (b : Byte), s.scan.phase = .cksum →
    exec (.scanb b) s = .next (s.scanned
      { phase := .seek0, buf := [], blen := 0, rem := 0, consumed := s.scan.consumed + 1 }
      (.frameReady (s.scan.bytes ++ [b])))

/-- The dispatch rows of the seeking and header phases, each one branch of its rule, in every state: a row does not test `PHASE`
(the model's reading, log 13; 42_scanner.md section 1). -/
def Obligations.SeekAndHeaderRowsRunTheirBranch : Prop :=
  ∀ (s : State) (b : Byte),
    exec .scanbSeek0Mark0 s = .next (s.scanned
      { s.scan with
        phase := .seek1, buf := s.scan.buf.write s.scan.blen MARK0, blen := s.scan.blen + 1,
        consumed := s.scan.consumed + 1 } .none) ∧
    exec (.scanbSeek0Other b) s = .next (s.scanned
      { s.scan with phase := .seek0, consumed := s.scan.consumed + 1 } .none) ∧
    exec .scanbSeek1Mark1 s = .next (s.scanned
      { s.scan with
        phase := .hdrStation, buf := s.scan.buf.write s.scan.blen MARK1, blen := s.scan.blen + 1,
        consumed := s.scan.consumed + 1 } .none) ∧
    exec .scanbSeek1Mark0 s = .next (s.scanned
      { s.scan with phase := .seek1, consumed := s.scan.consumed + 1 } .none) ∧
    exec (.scanbSeek1Other b) s = .next (s.scanned
      { s.scan with phase := .seek0, buf := [], blen := 0, consumed := s.scan.consumed + 1 } .none) ∧
    exec (.scanbHdrStationAny b) s = .next (s.scanned
      { s.scan with
        phase := .hdrLen, buf := s.scan.buf.write s.scan.blen b, blen := s.scan.blen + 1,
        consumed := s.scan.consumed + 1 } .none) ∧
    exec .scanbHdrLenZero s = .next (s.scanned
      { phase := .cksum, buf := s.scan.buf.write s.scan.blen 0, blen := s.scan.blen + 1, rem := 0,
        consumed := s.scan.consumed + 1 } .none) ∧
    exec (.scanbHdrLenNonzero b) s = .next (s.scanned
      { phase := .bodyFn, buf := s.scan.buf.write s.scan.blen b, blen := s.scan.blen + 1, rem := b,
        consumed := s.scan.consumed + 1 } .none)

/-- The dispatch rows of the body and checksum phases, in every state (log 13, log 6; 42_scanner.md section 1). -/
def Obligations.BodyAndChecksumRowsRunTheirBranch : Prop :=
  ∀ (s : State) (b : Byte), ∃ v : Byte, (s.scan.rem ≠ 0 → v = s.scan.rem - 1) ∧
    exec (.scanbBodyFnAny b) s = .next (s.scanned
      { phase := if v = 0 then .cksum else .body, buf := s.scan.buf.write s.scan.blen b,
        blen := s.scan.blen + 1, rem := v, consumed := s.scan.consumed + 1 } .none) ∧
    exec .scanbBodyMark0 s = .next (s.scanned
      { s.scan with
        phase := .bodyEsc, buf := s.scan.buf.write s.scan.blen STUFF, blen := s.scan.blen + 1,
        consumed := s.scan.consumed + 1 } .none) ∧
    exec (.scanbBodyOther b) s = .next (s.scanned
      { phase := if v = 0 then .cksum else .body, buf := s.scan.buf.write s.scan.blen b,
        blen := s.scan.blen + 1, rem := v, consumed := s.scan.consumed + 1 } .none) ∧
    exec .scanbBodyEscMark0 s = .next (s.scanned
      { phase := if v = 0 then .cksum else .body, buf := s.scan.buf.write s.scan.blen STUFF,
        blen := s.scan.blen + 1, rem := v, consumed := s.scan.consumed + 1 } .none) ∧
    exec (.scanbBodyEscOther b) s = .next (s.scanned
      { phase := .seek0, buf := [], blen := 0, rem := 0, consumed := s.scan.consumed + 1 }
      (.frameReady (s.scan.bytes ++ [b]))) ∧
    exec (.scanbCksumAny b) s = .next (s.scanned
      { phase := .seek0, buf := [], blen := 0, rem := 0, consumed := s.scan.consumed + 1 }
      (.frameReady (s.scan.bytes ++ [b])))

/-- 30_encoding.md R76 (derived there), 42_scanner.md R130: `SCANB(b)` is the row that its dispatch word `{PHASE, b}` decodes to, and
that row is well-formed: each phase and byte have exactly one rule. -/
def Obligations.ScanbIsItsDispatchRow : Prop :=
  ∀ (s : State) (b : Byte), ∃ i : Instr,
    decode ⟨.scanDispatch, [s.scan.phase.code.setWidth 8, b]⟩ = .ok i ∧ i.wellFormed = true ∧
      exec (.scanb b) s = exec i s

/-- 10_state.md R22, 20_memory.md R46: a `SCANB` step appends its byte at index `BLEN` and leaves every other byte, or leaves `BUF`,
or empties it; and it appends in every phase but the seeking ones' discards and the deliveries. -/
def Obligations.ScanbAppendsOrClears : Prop :=
  ∀ (s : State) (b : Byte), ∃ t, exec (.scanb b) s = .next t ∧
    ((t.out.event = .none ∧ t.scan.bytes = s.scan.bytes ++ [b] ∧ t.scan.blen = s.scan.blen + 1 ∧
        t.scan.buf.read s.scan.blen = b ∧ ∀ a, a ≠ s.scan.blen → t.scan.buf.read a = s.scan.buf.read a) ∨
      (t.out.event = .none ∧ b ≠ MARK0 ∧ s.scan.phase = .seek0 ∧ t.scan.blen = s.scan.blen ∧
        ∀ a, t.scan.buf.read a = s.scan.buf.read a) ∨
      (t.out.event = .none ∧ b = MARK0 ∧ s.scan.phase = .seek1 ∧ t.scan.blen = s.scan.blen ∧
        ∀ a, t.scan.buf.read a = s.scan.buf.read a) ∨
      (t.scan.bytes = [] ∧ t.scan.blen = 0 ∧
        (t.out.event = .frameReady (s.scan.bytes ++ [b]) ∨
          (t.out.event = .none ∧ s.scan.phase = .seek1 ∧ b ≠ MARK0 ∧ b ≠ MARK1))))

/-- 42_scanner.md R140: a frame is delivered in exactly two situations, carries exactly the bytes of the candidate, and leaves the
scanner seeking with an empty buffer and `CONSUMED` running. -/
def Obligations.FrameReadyCarriesTheCandidate : Prop :=
  ∀ (s : State) (b : Byte), ∃ t, exec (.scanb b) s = .next t ∧
    ((∃ f, t.out.event = .frameReady f) ↔
      (s.scan.phase = .cksum ∨ (s.scan.phase = .bodyEsc ∧ b ≠ STUFF))) ∧
    ∀ f, t.out.event = .frameReady f →
      f = s.scan.bytes ++ [b] ∧ t.scan.phase = .seek0 ∧ t.scan.bytes = [] ∧ t.scan.rem = 0 ∧
        t.scan.consumed = s.scan.consumed + 1

/-- 42_scanner.md R143 (derived there): `PHASE` after a `SCANB` step, by `PHASE` before and the class of the byte.
The premise rules out `REM = 0` in the body phases, which no run reaches. -/
def Obligations.ScanbFollowsTransitionTable : Prop :=
  ∀ (s : State) (b : Byte), s.Inv → ∃ t, exec (.scanb b) s = .next t ∧
    t.scan.phase = transition s.scan.phase (byteClass b) b s.scan.rem

/-- 42_scanner.md R141, 70_reset_and_hazards.md R190, R191 (spec decision D17): `SCANR` gives the scanner the reset state, delivers
nothing, and changes nothing of a reset machine. -/
def Obligations.ScanrRestoresReset : Prop :=
  (∀ s : State, exec .scanr s = .next (s.scanned
    { phase := .seek0, buf := [], blen := 0, rem := 0, consumed := 0 } .none)) ∧
  exec .scanr State.reset = .next State.reset

/-- 10_state.md R24 (spec decision D16): the first clause counts a byte; the others say that no instruction, and no step that goes on
with one, reads `CONSUMED`: with another value of it everything else comes out the same. -/
def Obligations.ConsumedCountsAndIsNeverRead : Prop :=
  (∀ (s : State) (b : Byte), ∃ t, exec (.scanb b) s = .next t ∧ t.scan.consumed = s.scan.consumed + 1) ∧
  (∀ (i : Instr) (s : State) (n : Nat), ∃ (t : State) (m : Nat), exec i s = .next t ∧
    exec i { s with scan := { s.scan with consumed := n } } =
      .next { t with scan := { t.scan with consumed := m } }) ∧
  ∀ (s : State) (n : Nat), s.running ≠ none → ∃ (t : State) (m : Nat), step s = .next t ∧
    step { s with scan := { s.scan with consumed := n } } =
      .next { t with scan := { t.scan with consumed := m } }

/-! ## Chunks and streams -/

/-- 00_scope.md R12, 42_scanner.md R145 (spec decision D15), one turn of the loop at a time: each step of `FEED` is the `SCANB` of its
next byte, the first made by `exec`, the others by `step`, before any other packet is taken.
The outcome comes in the step of the last `SCANB`, with the event of that `SCANB` beside it (log 10). -/
def Obligations.FeedIsOneScanbPerStep : Prop :=
  ∀ (s : State) (total used : Nat) (b : Byte) (rest : List Byte), ∃ t u : State,
    exec (.scanb b) s = .next u ∧ t.scan = u.scan ∧ t.queue = s.queue ∧
    t.out.event = u.out.event ∧ t.out.enc = none ∧ t.out.dec = none ∧
    (s.running = some (.feed total used (b :: rest)) → step s = .next t) ∧
    (total = (b :: rest).length → used = 0 → exec (.feed (b :: rest)) s = .next t) ∧
    (∀ f, u.out.event = .frameReady f →
      t.running = none ∧ t.out.feed = some ⟨.frameReady f, used + 1⟩) ∧
    (u.out.event = .none → rest ≠ [] →
      t.running = some (.feed total (used + 1) rest) ∧ t.out.feed = none) ∧
    (u.out.event = .none → rest = [] →
      t.running = none ∧
      (total > 0 ∧ u.scan.phase = .seek0 → t.out.feed = some ⟨.garbage total, used + 1⟩) ∧
      (¬ (total > 0 ∧ u.scan.phase = .seek0) → t.out.feed = some ⟨.needMoreData, used + 1⟩))

/-- 42_scanner.md R145 (spec decision D15): `FEED` completes on every chunk, and all its steps together are the `SCANB` steps of its
bytes up to the first `FRAME_READY`, with the outcome and `used` of the rule. It writes no other port and not the operation port.
That the last step's event stands beside the outcome, and that an empty chunk takes one step, are the model's (log 10). -/
def Obligations.FeedStopsAtFirstFrame : Prop :=
  ∀ (chunk : List Byte) (s : State), ∃ (t : State) (frames : List (List Byte)),
    runWhole (.feed chunk) s = some (t, frames) ∧
    t.queue = s.queue ∧ t.running = none ∧ t.out.enc = none ∧ t.out.dec = none ∧
    ((∃ (before rest f : List Byte) (b : Byte) (u v : State),
        chunk = before ++ b :: rest ∧ scanStream before s = some (u, []) ∧
        exec (.scanb b) u = .next v ∧ v.out.event = .frameReady f ∧
        t.scan = v.scan ∧ t.out.event = .frameReady f ∧ frames = [f] ∧
        t.out.feed = some ⟨.frameReady f, before.length + 1⟩) ∨
      (∃ u : State, scanStream chunk s = some (u, []) ∧ t.scan = u.scan ∧ t.out.event = .none ∧ frames = [] ∧
        (chunk ≠ [] ∧ u.scan.phase = .seek0 → t.out.feed = some ⟨.garbage chunk.length, chunk.length⟩) ∧
        (chunk = [] ∨ u.scan.phase ≠ .seek0 → t.out.feed = some ⟨.needMoreData, chunk.length⟩)))

/-- 42_scanner.md R146, last sentence, and R145: an empty chunk never changes the registers.
It has no `SCANB`; that it takes one step, with the event `NONE`, is the model's choice (log 10). -/
def Obligations.EmptyChunkChangesNothing : Prop :=
  ∀ s : State, exec (.feed []) s =
    .next { s with out := ⟨.none, none, none, some ⟨.needMoreData, 0⟩⟩, running := none }

/-- 42_scanner.md R144, R146, R147 (spec decision D15): what each outcome tells the controller, and that `CONSUMED` counts exactly the
accepted bytes. That the frame stands at the event port beside the outcome is the model's choice (log 10). -/
def Obligations.FeedOutcomesMeanWhatTheySay : Prop :=
  ∀ (chunk : List Byte) (s : State), s.Inv →
    ∃ (t : State) (frames : List (List Byte)) (o : ScanOutcome) (used : Nat),
      runWhole (.feed chunk) s = some (t, frames) ∧ t.out.feed = some ⟨o, used⟩ ∧ used ≤ chunk.length ∧
      t.scan.consumed = s.scan.consumed + used ∧
      (∀ f, o = .frameReady f →
        1 ≤ used ∧ t.scan.phase = .seek0 ∧ t.scan.bytes = [] ∧ t.out.event = .frameReady f ∧ frames = [f]) ∧
      (∀ k, o = .garbage k →
        k = chunk.length ∧ used = k ∧ 1 ≤ k ∧ t.scan.phase = .seek0 ∧ t.scan.bytes = [] ∧ frames = []) ∧
      (o = .needMoreData → used = chunk.length ∧ (chunk = [] ∨ t.scan.phase ≠ .seek0) ∧ frames = [])

/-- 42_scanner.md R148 (derived there): chunking does not matter. Any cutting of a stream, the unused suffix fed again each time,
delivers the same frames and leaves the same registers as one `SCANB` per byte. The frames are read off the event port, one step of
`FEED` at a time (log 10). -/
def Obligations.ChunkingDoesNotMatter : Prop :=
  ∀ (chunks : List (List Byte)) (s : State), ∃ (t u : State) (frames : List (List Byte)),
    feedChunks chunks s = some (t, frames) ∧ scanStream chunks.flatten s = some (u, frames) ∧ t.scan = u.scan

/-- The units on the wire are the arrival of their bytes as one chunk, step by step (the model's reading, log 11; 30_encoding.md
section 1). -/
def Obligations.WireUnitsArriveAsOneChunk : Prop :=
  ∀ s : State,
    (∀ st l f region c, ∃ t, exec (.frame st l f region c) s = .next t ∧
      exec (.feed ([MARK0, MARK1, st, l, f] ++ region ++ [c])) s = .next t) ∧
    (∃ t, exec .mark s = .next t ∧ exec (.feed [MARK0, MARK1]) s = .next t) ∧
    ∃ t, exec .stuffPair s = .next t ∧ exec (.feed [STUFF, STUFF]) s = .next t

/-- 30_encoding.md R61, 42_scanner.md R131, R132, R136, R137: the marker opens a candidate when the scanner seeks, whether or not a
marker byte is held; inside a region, with a byte pending or not, it never does.
`MARK` as the arrival of its bytes, with the outcome and `used` of a chunk, is the model's reading (log 11). -/
def Obligations.MarkerOpensCandidateWhenSeeking : Prop :=
  (∀ s : State, s.Inv → (s.scan.phase = .seek0 ∨ s.scan.phase = .seek1) →
    ∃ t, runWhole .mark s = some (t, []) ∧ t.scan.phase = .hdrStation ∧ t.scan.bytes = [MARK0, MARK1] ∧
      t.out.feed = some ⟨.needMoreData, 2⟩) ∧
  (∀ s : State, s.Inv → s.scan.phase = .body →
    ∃ t, runWhole .mark s = some (t, [s.scan.bytes ++ [MARK0, MARK1]]) ∧ t.scan.phase = .seek0 ∧ t.scan.bytes = [] ∧
      t.out.feed = some ⟨.frameReady (s.scan.bytes ++ [MARK0, MARK1]), 2⟩) ∧
  ∀ s : State, s.Inv → s.scan.phase = .bodyEsc →
    (s.scan.rem = 1 →
      ∃ t, runWhole .mark s = some (t, [s.scan.bytes ++ [MARK0, MARK1]]) ∧ t.scan.phase = .seek0 ∧ t.scan.bytes = [] ∧
        t.out.feed = some ⟨.frameReady (s.scan.bytes ++ [MARK0, MARK1]), 2⟩) ∧
    (s.scan.rem ≠ 1 →
      ∃ t, runWhole .mark s = some (t, []) ∧ t.scan.bytes = s.scan.bytes ++ [MARK0, MARK1] ∧
        t.scan.rem = s.scan.rem - 2 ∧ t.scan.phase = (if s.scan.rem = 2 then .cksum else .body) ∧
        t.out.feed = some ⟨.needMoreData, 2⟩)

/-- 30_encoding.md R67, 42_scanner.md R136, R137: in the region a doubled marker byte is two physical bytes and one logical byte.
`STUFFPAIR` as the arrival of its bytes, with the outcome and `used` of a chunk, is the model's reading (log 11). -/
def Obligations.StuffPairIsOneLogicalByte : Prop :=
  ∀ s : State, s.scan.phase = .body → s.scan.rem ≠ 0 →
    ∃ t, runWhole .stuffPair s = some (t, []) ∧ t.scan.bytes = s.scan.bytes ++ [STUFF, STUFF] ∧
      t.scan.rem = s.scan.rem - 1 ∧ t.scan.phase = (if s.scan.rem = 1 then .cksum else .body) ∧
      t.out.feed = some ⟨.needMoreData, 2⟩

/-- 42_scanner.md R150 (derived there), 40_encode.md R99 (c): the scanner, seeking, delivers an encoded frame on its last byte and
not before; as a row of the table, a well-formed frame is delivered whole (the last clause is the model's reading of that row, log 11). -/
def Obligations.EncodedFrameIsDeliveredOnLastByte : Prop :=
  ∀ (station function : Byte) (payload F : List Byte) (s e t : State), s.Inv →
    (s.scan.phase = .seek0 ∨ s.scan.phase = .seek1) →
    exec (.enc station function payload) e = .next t → t.out.enc = some (.frame F) →
      (∃ u, scanStream F.dropLast s = some (u, [])) ∧
      (∃ v, scanStream F s = some (v, [F]) ∧ v.scan.phase = .seek0 ∧ v.scan.bytes = []) ∧
      ∃ w, runWhole (.frame station (BitVec.ofNat 8 (1 + payload.length)) function (stuff payload)
          (sum8 F.dropLast)) s = some (w, [F]) ∧
        w.out.event = .frameReady F ∧ w.out.feed = some ⟨.frameReady F, F.length⟩

/-- 42_scanner.md R149 (derived there): from reset, noise without the start marker and then an encoded frame deliver exactly that
frame, on its last byte. -/
def Obligations.NoiseBeforeFrameIsTolerated : Prop :=
  ∀ (noise F payload : List Byte) (station function : Byte) (e t : State),
    ¬ [MARK0, MARK1] <:+: noise →
    exec (.enc station function payload) e = .next t → t.out.enc = some (.frame F) →
      (∃ u, scanStream (noise ++ F.dropLast) State.reset = some (u, [])) ∧
      ∃ v, scanStream (noise ++ F) State.reset = some (v, [F])

/-- 42_scanner.md R151 (derived there), 41_decode.md R127 (g): what every delivered candidate satisfies. -/
def Obligations.DeliveredCandidateIsDecodable : Prop :=
  ∀ (s t : State) (b : Byte) (f : List Byte), s.Inv → exec (.scanb b) s = .next t →
    t.out.event = .frameReady f →
      f.take 2 = [MARK0, MARK1] ∧ 5 ≤ f.length ∧ f.length ≤ MAX_FRAME ∧
      (s.scan.phase = .cksum →
        (byteAt f 3 = 0 → f.length = 5) ∧
        (byteAt f 3 ≠ 0 →
          ∃ p, unstuff (regionField f) = some p ∧ 1 + p.length = (byteAt f 3).toNat ∧
            ∀ e, ∃ u d, exec (.dec f e) t = .next u ∧ u.out.dec = some d ∧ d ≠ .error .malformedFrame)) ∧
      (s.scan.phase = .bodyEsc →
        ∀ e, ∃ u d, exec (.dec f e) t = .next u ∧ u.out.dec = some (.error d))

/-- 42_scanner.md R152 (derived there): a candidate in progress is delivered after a bounded number of further bytes, whatever they
are. -/
def Obligations.CandidateCompletesWithinBound : Prop :=
  ∀ (s : State) (bs : List Byte), s.Inv →
    ((s.scan.phase = .bodyFn ∨ s.scan.phase = .body ∨ s.scan.phase = .bodyEsc ∨ s.scan.phase = .cksum) →
      2 * s.scan.rem.toNat + 1 ≤ bs.length →
        ∃ u frames, scanStream bs s = some (u, frames) ∧ frames ≠ []) ∧
    (s.scan.phase = .hdrStation → 512 ≤ bs.length →
        ∃ u frames, scanStream bs s = some (u, frames) ∧ frames ≠ [])

/-- 70_reset_and_hazards.md R195: without a restart a partial candidate is continued: the first frame delivered begins with the bytes
already held. -/
def Obligations.PartialCandidateIsContinued : Prop :=
  ∀ (s u : State) (bs f : List Byte) (frames : List (List Byte)), s.Inv →
    s.scan.phase ≠ .seek0 → s.scan.phase ≠ .seek1 →
    scanStream bs s = some (u, f :: frames) → s.scan.bytes <+: f

/-! ## Invariants -/

/-- 10_state.md R25: the invariant holds after reset. -/
def Obligations.ResetSatisfiesInvariant : Prop := State.reset.Inv

/-- 10_state.md R25 (derived there): every step keeps the invariant, from every state that satisfies it. -/
def Obligations.StepKeepsInvariant : Prop := ∀ s t : State, s.Inv → step s = .next t → t.Inv

/-- 10_state.md R32 (derived there): the block is never stuck: from every state of the invariant every run goes on. -/
def Obligations.InvariantRunsNeverStop : Prop := ∀ (s : State) (n : Nat), s.Inv → SafeRun n s

/-- 10_state.md R25, 20_memory.md R47 (derived there): `BLEN` and `REM` by phase; the buffer never overflows. -/
def Obligations.BufferNeverOverflows : Prop :=
  ∀ s : State, s.Inv →
    s.scan.blen < BUF_CAP ∧
    (s.scan.phase = .seek0 → s.scan.blen = 0 ∧ s.scan.rem = 0) ∧
    (s.scan.phase = .seek1 → s.scan.blen = 1 ∧ s.scan.rem = 0) ∧
    (s.scan.phase = .hdrStation → s.scan.blen = 2 ∧ s.scan.rem = 0) ∧
    (s.scan.phase = .hdrLen → s.scan.blen = 3 ∧ s.scan.rem = 0) ∧
    (s.scan.phase = .bodyFn → s.scan.blen = 4 ∧ s.scan.rem = byteAt s.scan.bytes 3 ∧ 1 ≤ s.scan.rem.toNat) ∧
    (s.scan.phase = .body → 5 ≤ s.scan.blen ∧ s.scan.blen ≤ BUF_CAP - 2) ∧
    (s.scan.phase = .bodyEsc → 6 ≤ s.scan.blen ∧ s.scan.blen ≤ BUF_CAP - 2) ∧
    (s.scan.phase = .cksum → 4 ≤ s.scan.blen ∧ s.scan.rem = 0) ∧
    ((s.scan.phase = .body ∨ s.scan.phase = .bodyEsc) →
      1 ≤ s.scan.rem.toNat ∧ s.scan.rem.toNat + 1 ≤ (byteAt s.scan.bytes 3).toNat) ∧
    ((s.scan.phase = .body ∨ s.scan.phase = .bodyEsc ∨ s.scan.phase = .cksum) → byteAt s.scan.bytes 3 ≠ 0 →
      s.scan.blen ≤ 5 + 2 * ((byteAt s.scan.bytes 3).toNat - 1 - s.scan.rem.toNat) +
        (if s.scan.phase = .bodyEsc then 1 else 0))

/-! ## Encoding and stepping -/

/-- 30_encoding.md R60, R61, R67, R73 to R76, 10_state.md R21, and the model's coding (log 1): every well-formed instruction decodes
from its own packet. -/
def Obligations.DecodeInvertsEncode : Prop := ∀ i : Instr, i.wellFormed = true → decode (encode i) = .ok i

/-- The other direction (log 1): a packet codes at most one instruction and no bit of it is dropped. -/
def Obligations.EncodeInvertsDecode : Prop := ∀ (p : Packet) (i : Instr), decode p = .ok i → encode i = p

/-- 10_state.md R32, 30_encoding.md R76 (derived there): for each phase and byte exactly one well-formed row has the dispatch word. -/
def Obligations.DispatchWordsNameOneRow : Prop :=
  ∀ (p : Phase) (b : Byte), ∃ i : Instr,
    (i.wellFormed = true ∧ encode i = ⟨.scanDispatch, [p.code.setWidth 8, b]⟩) ∧
    ∀ j : Instr, j.wellFormed = true → encode j = ⟨.scanDispatch, [p.code.setWidth 8, b]⟩ → j = i

/-- Words written out from 30_encoding.md R60, R61, R67 (section 1), its tables R73 to R76 (section 4) and 10_state.md R21 decode to
their rows (operand layout: log 1). -/
def Obligations.KnownWordsDecode : Prop :=
  decode ⟨.op, [0b00, 0x02, 0x20, 0x10]⟩ = .ok (.enc 0x02 0x20 [0x10]) ∧
  decode ⟨.op, [0b01, 0x20, 0x10, 0x02]⟩ = .ok (.dec [0x10, 0x02] 0x20) ∧
  decode ⟨.op, [0b10, 0x06]⟩ = .ok (.scanb 0x06) ∧
  decode ⟨.op, [0b11]⟩ = .ok .scanr ∧
  decode ⟨.wire, [0b00010000, 0b00000010]⟩ = .ok .mark ∧
  decode ⟨.wire, [0b00010000, 0b00010000]⟩ = .ok .stuffPair ∧
  decode ⟨.wire, [0x10, 0x02, 0x02, 0x02, 0x20, 0x10, 0x10, 0x56]⟩ = .ok (.frame 0x02 0x02 0x20 [0x10, 0x10] 0x56) ∧
  decode ⟨.scanDispatch, [0b101, 0b00010000]⟩ = .ok .scanbBodyMark0 ∧
  decode ⟨.decStatus, [0b10]⟩ = .ok .checksumMismatch ∧
  decode ⟨.feedOutcome, [0b10, 0, 0, 0]⟩ = .ok (.garbage 3) ∧
  decode ⟨.phaseCode, [0b110]⟩ = .ok .phaseBodyEsc

/-- 00_scope.md R12 and the model's operation port (log 2): with nothing running, a step takes the packet issued first and executes
the instruction it decodes to. What is running takes the steps before it: 42_scanner.md R145 in `FeedIsOneScanbPerStep`, 30_encoding.md
R77 in `RoundTripReturnsOperands`. -/
def Obligations.StepRunsDecodedInstruction : Prop :=
  ∀ (s : State) (p : Packet) (rest : List Packet) (i : Instr), s.running = none → s.queue = p :: rest →
    decode p = .ok i → step s = exec i { s with queue := rest }

/-- The model's choices (log 3, log 5): with nothing issued and nothing running a step keeps the registers and ends the outputs; a
packet that codes no instruction stops the machine. -/
def Obligations.StepIdlesOrStopsByName : Prop :=
  (∀ s : State, s.running = none → s.queue = [] → step s = .next { s with out := ⟨.none, none, none, none⟩ }) ∧
  ∀ (s : State) (p : Packet) (rest : List Packet) (why : Reject), s.running = none → s.queue = p :: rest →
    decode p = .error why → step s = .fault (.undefinedPacket why)

/-- The operation port is the controller's (log 1): no instruction puts anything into it or takes anything out of it. -/
def Obligations.InstructionsNeverIssue : Prop :=
  ∀ (i : Instr) (s : State), ∃ t, exec i s = .next t ∧ t.queue = s.queue

/-- 10_state.md R31, 60_exceptions.md R180: instances share nothing. What an instance does is what it does alone, and no other
instance changes or is looked at. -/
def Obligations.InstancesShareNothing : Prop :=
  (∀ (k : Nat) (ss tt : Instances), stepInstance k ss = .next tt →
    tt.length = ss.length ∧ (∀ j, j ≠ k → tt[j]? = ss[j]?) ∧
      ∃ s t, ss[k]? = some s ∧ tt[k]? = some t ∧ step s = .next t) ∧
  ∀ (k : Nat) (ss ss' tt : Instances), ss[k]? = ss'[k]? → stepInstance k ss = .next tt →
    ∃ tt', stepInstance k ss' = .next tt' ∧ tt'[k]? = tt[k]?
end

