-- ==== Sys2Proof/Laws/State.lean ====
section
/-! SUPPORT. One lemma per field per update of State and ScanState, so that no proof unfolds a record update. -/

namespace Sys2Proof.Machine

open Sys2Proof.Config

variable (s : State) (c : ScanState)

@[simp] theorem bufAppend_phase (b : Byte) : (c.bufAppend b).phase = c.phase := rfl
@[simp] theorem bufAppend_blen (b : Byte) : (c.bufAppend b).blen = c.blen + 1 := rfl
@[simp] theorem bufAppend_rem (b : Byte) : (c.bufAppend b).rem = c.rem := rfl
@[simp] theorem bufAppend_consumed (b : Byte) : (c.bufAppend b).consumed = c.consumed := rfl
@[simp] theorem bufAppend_buf (b : Byte) : (c.bufAppend b).buf = c.buf.write c.blen b := rfl

@[simp] theorem bufClear_phase : c.bufClear.phase = c.phase := rfl
@[simp] theorem bufClear_blen : c.bufClear.blen = 0 := rfl
@[simp] theorem bufClear_rem : c.bufClear.rem = c.rem := rfl
@[simp] theorem bufClear_consumed : c.bufClear.consumed = c.consumed := rfl
@[simp] theorem bufClear_buf : c.bufClear.buf = [] := rfl

@[simp] theorem count_phase : c.count.phase = c.phase := rfl
@[simp] theorem count_blen : c.count.blen = c.blen := rfl
@[simp] theorem count_rem : c.count.rem = c.rem := rfl
@[simp] theorem count_consumed : c.count.consumed = c.consumed + 1 := rfl
@[simp] theorem count_buf : c.count.buf = c.buf := rfl
@[simp] theorem count_bytes : c.count.bytes = c.bytes := rfl

@[simp] theorem setPhase_phase (p : Phase) : (c.setPhase p).phase = p := rfl
@[simp] theorem setPhase_blen (p : Phase) : (c.setPhase p).blen = c.blen := rfl
@[simp] theorem setPhase_rem (p : Phase) : (c.setPhase p).rem = c.rem := rfl
@[simp] theorem setPhase_consumed (p : Phase) : (c.setPhase p).consumed = c.consumed := rfl
@[simp] theorem setPhase_buf (p : Phase) : (c.setPhase p).buf = c.buf := rfl
@[simp] theorem setPhase_bytes (p : Phase) : (c.setPhase p).bytes = c.bytes := rfl

@[simp] theorem setRem_phase (v : Byte) : (c.setRem v).phase = c.phase := rfl
@[simp] theorem setRem_blen (v : Byte) : (c.setRem v).blen = c.blen := rfl
@[simp] theorem setRem_rem (v : Byte) : (c.setRem v).rem = v := rfl
@[simp] theorem setRem_consumed (v : Byte) : (c.setRem v).consumed = c.consumed := rfl
@[simp] theorem setRem_buf (v : Byte) : (c.setRem v).buf = c.buf := rfl
@[simp] theorem setRem_bytes (v : Byte) : (c.setRem v).bytes = c.bytes := rfl

@[simp] theorem takeLogical_blen : c.takeLogical.blen = c.blen := rfl
@[simp] theorem takeLogical_rem : c.takeLogical.rem = decrement c.rem := rfl
@[simp] theorem takeLogical_consumed : c.takeLogical.consumed = c.consumed := rfl
@[simp] theorem takeLogical_buf : c.takeLogical.buf = c.buf := rfl
@[simp] theorem takeLogical_bytes : c.takeLogical.bytes = c.bytes := rfl
@[simp] theorem takeLogical_phase :
    c.takeLogical.phase = if decrement c.rem = 0#8 then .cksum else .body := rfl

@[simp] theorem quiet_fst : (quiet c).1 = c := rfl
@[simp] theorem quiet_snd : (quiet c).2 = .none := rfl

@[simp] theorem deliver_phase : (deliver c).1.phase = .seek0 := rfl
@[simp] theorem deliver_buf : (deliver c).1.buf = [] := rfl
@[simp] theorem deliver_blen : (deliver c).1.blen = 0 := rfl
@[simp] theorem deliver_rem : (deliver c).1.rem = 0 := rfl
@[simp] theorem deliver_consumed : (deliver c).1.consumed = c.consumed := rfl
@[simp] theorem deliver_event : (deliver c).2 = .frameReady c.bytes := rfl

@[simp] theorem frames_none : Event.none.frames = [] := rfl
@[simp] theorem frames_frameReady (f : List Byte) : (Event.frameReady f).frames = [f] := rfl

@[simp] theorem afterScan_scan (r : ScanState × Event) : (s.afterScan r).scan = r.1 := rfl
@[simp] theorem afterScan_event (r : ScanState × Event) : (s.afterScan r).out.event = r.2 := rfl
@[simp] theorem afterScan_enc (r : ScanState × Event) : (s.afterScan r).out.enc = none := rfl
@[simp] theorem afterScan_dec (r : ScanState × Event) : (s.afterScan r).out.dec = none := rfl
@[simp] theorem afterScan_feed (r : ScanState × Event) : (s.afterScan r).out.feed = none := rfl
@[simp] theorem afterScan_queue (r : ScanState × Event) : (s.afterScan r).queue = s.queue := rfl
@[simp] theorem afterScan_running (r : ScanState × Event) : (s.afterScan r).running = s.running := rfl

@[simp] theorem returnDec_scan (d : DecOut) : (s.returnDec d).scan = s.scan := rfl
@[simp] theorem returnDec_queue (d : DecOut) : (s.returnDec d).queue = s.queue := rfl
@[simp] theorem returnDec_running (d : DecOut) : (s.returnDec d).running = s.running := rfl
@[simp] theorem returnDec_out (d : DecOut) : (s.returnDec d).out = ⟨.none, none, some d, none⟩ := rfl

@[simp] theorem raise_scan (e : FrameError) : (s.raise e).scan = s.scan := rfl
@[simp] theorem raise_queue (e : FrameError) : (s.raise e).queue = s.queue := rfl
@[simp] theorem raise_running (e : FrameError) : (s.raise e).running = s.running := rfl
@[simp] theorem raise_out (e : FrameError) : (s.raise e).out = ⟨.none, none, some (.error e), none⟩ := rfl

@[simp] theorem returnEnc_scan (e : EncOut) : (s.returnEnc e).scan = s.scan := rfl
@[simp] theorem returnEnc_queue (e : EncOut) : (s.returnEnc e).queue = s.queue := rfl
@[simp] theorem returnEnc_running (e : EncOut) : (s.returnEnc e).running = s.running := rfl
@[simp] theorem returnEnc_out (e : EncOut) : (s.returnEnc e).out = ⟨.none, some e, none, none⟩ := rfl

@[simp] theorem returnFeed_scan (o : ScanOutcome) (n : Nat) : (s.returnFeed o n).scan = s.scan := rfl
@[simp] theorem returnFeed_queue (o : ScanOutcome) (n : Nat) : (s.returnFeed o n).queue = s.queue := rfl
@[simp] theorem returnFeed_running (o : ScanOutcome) (n : Nat) : (s.returnFeed o n).running = s.running := rfl
@[simp] theorem returnFeed_event (o : ScanOutcome) (n : Nat) : (s.returnFeed o n).out.event = s.out.event := rfl
@[simp] theorem returnFeed_enc (o : ScanOutcome) (n : Nat) : (s.returnFeed o n).out.enc = s.out.enc := rfl
@[simp] theorem returnFeed_dec (o : ScanOutcome) (n : Nat) : (s.returnFeed o n).out.dec = s.out.dec := rfl
@[simp] theorem returnFeed_feed (o : ScanOutcome) (n : Nat) : (s.returnFeed o n).out.feed = some ⟨o, n⟩ := rfl

@[simp] theorem clearOut_scan : s.clearOut.scan = s.scan := rfl
@[simp] theorem clearOut_queue : s.clearOut.queue = s.queue := rfl
@[simp] theorem clearOut_running : s.clearOut.running = s.running := rfl

@[simp] theorem finish_scan : s.finish.scan = s.scan := rfl
@[simp] theorem finish_out : s.finish.out = s.out := rfl
@[simp] theorem finish_queue : s.finish.queue = s.queue := rfl
@[simp] theorem finish_running : s.finish.running = none := rfl

@[simp] theorem goOn_scan (r : Running) : (s.goOn r).scan = s.scan := rfl
@[simp] theorem goOn_out (r : Running) : (s.goOn r).out = s.out := rfl
@[simp] theorem goOn_queue (r : Running) : (s.goOn r).queue = s.queue := rfl
@[simp] theorem goOn_running (r : Running) : (s.goOn r).running = some r := rfl
@[simp] theorem clearOut_out : s.clearOut.out = Outputs.idle := rfl

@[simp] theorem idle_event : Outputs.idle.event = .none := rfl
@[simp] theorem idle_enc : Outputs.idle.enc = none := rfl
@[simp] theorem idle_dec : Outputs.idle.dec = none := rfl
@[simp] theorem idle_feed : Outputs.idle.feed = none := rfl

theorem decrement_pos {r : Byte} (h : r ≠ 0#8) : decrement r = r - 1#8 := if_neg h

theorem decrement_toNat {r : Byte} (h : r ≠ 0#8) : (decrement r).toNat = r.toNat - 1 := by
  rw [decrement_pos h]
  have : r.toNat ≠ 0 := by simpa [BitVec.toNat_eq] using h
  bv_omega

end Sys2Proof.Machine
end

