-- ==== Sys2Proof/Laws/Memory.lean ====
section
/-! SUPPORT. The laws of `BUF`: read after write, the canonical form kept by every operation, and `BUF[0..BLEN-1]` after an append or a clear. -/

namespace Sys2Proof.Machine

open Sys2Proof.Config

namespace Memory

@[simp] theorem read_nil (a : Nat) : Memory.read [] a = unwrittenByte := rfl

theorem read_filter_same (m : Memory) (a : Nat) : Memory.read (m.filter (·.1 ≠ a)) a = unwrittenByte := by
  induction m with
  | nil => rfl
  | cons c m ih =>
    by_cases h : c.1 = a
    · simpa [h] using ih
    · rw [List.filter_cons_of_pos (by simpa using h)]
      simpa [read, h] using ih

theorem read_filter_ne (m : Memory) {a x : Nat} (hx : x ≠ a) :
    Memory.read (m.filter (·.1 ≠ a)) x = m.read x := by
  induction m with
  | nil => rfl
  | cons c m ih =>
    by_cases h : c.1 = a
    · have : c.1 ≠ x := fun e => hx (e.symm.trans h)
      rw [List.filter_cons_of_neg (by simpa using h), ih]
      simp [read, this]
    · rw [List.filter_cons_of_pos (by simpa using h)]
      simp only [read, ih]

theorem read_insertCell_ne (m : Memory) (c : Host.Cell) {x : Nat} (hx : c.1 ≠ x) :
    Memory.read (m.insertCell c) x = m.read x := by
  induction m with
  | nil => simp [insertCell, read, hx]
  | cons d m ih =>
    unfold insertCell
    split
    · simp [read, hx]
    · simp only [read, ih]

theorem read_insertCell_same (m : Memory) (c : Host.Cell) (h : ∀ d ∈ m, d.1 ≠ c.1) :
    Memory.read (m.insertCell c) c.1 = c.2 := by
  induction m with
  | nil => simp [insertCell, read]
  | cons d m ih =>
    unfold insertCell
    split
    · simp [read]
    · have hd : d.1 ≠ c.1 := h d (by simp)
      simp only [read, hd, if_false]
      exact ih fun e he => h e (by simp [he])

theorem read_write_same (m : Memory) (a : Nat) (b : Byte) : (m.write a b).read a = b := by
  unfold write
  split
  · next h => rw [read_filter_same, h]
  · exact read_insertCell_same _ (a, b) (by simp)

theorem read_write_ne (m : Memory) {a x : Nat} (b : Byte) (hx : x ≠ a) : (m.write a b).read x = m.read x := by
  unfold write
  split
  · exact read_filter_ne m hx
  · rw [read_insertCell_ne _ _ (Ne.symm hx), read_filter_ne m hx]

theorem mem_insertCell {m : Memory} {c d : Host.Cell} : d ∈ m.insertCell c ↔ d = c ∨ d ∈ m := by
  induction m with
  | nil => simp [insertCell]
  | cons e m ih =>
    unfold insertCell
    split
    · simp
    · simp [ih]; tauto

theorem pairwise_insertCell {m : Memory} {c : Host.Cell} (hm : m.Pairwise (·.1 < ·.1))
    (hc : ∀ d ∈ m, d.1 ≠ c.1) : (m.insertCell c).Pairwise (·.1 < ·.1) := by
  induction m with
  | nil => simp [insertCell]
  | cons e m ih =>
    rw [List.pairwise_cons] at hm
    unfold insertCell
    split
    · next h =>
      refine List.pairwise_cons.2 ⟨fun d hd => ?_, List.pairwise_cons.2 hm⟩
      rcases List.mem_cons.1 hd with rfl | hd
      · exact h
      · exact h.trans (hm.1 d hd)
    · next h =>
      have he : e.1 < c.1 := lt_of_le_of_ne (not_lt.1 h) (hc e (by simp))
      refine List.pairwise_cons.2 ⟨fun d hd => ?_, ih hm.2 fun d hd => hc d (by simp [hd])⟩
      rcases mem_insertCell.1 hd with rfl | hd
      · exact he
      · exact hm.1 d hd

theorem wf_nil : Memory.wf [] := by simp [wf]

/-- Every write keeps the canonical form. -/
theorem wf_write {m : Memory} (h : m.wf) (a : Nat) (b : Byte) : (m.write a b).wf := by
  have hp := h.1.filter (·.1 ≠ a)
  unfold write
  split
  · exact ⟨hp, fun c hc => h.2 c (List.mem_of_mem_filter hc)⟩
  · next hb =>
    refine ⟨pairwise_insertCell hp (by simp), fun c hc => ?_⟩
    rcases mem_insertCell.1 hc with rfl | hc
    · exact hb
    · exact h.2 c (List.mem_of_mem_filter hc)

/-- A write lists no address but the written one and those listed before. -/
theorem mem_write {m : Memory} {a : Nat} {b : Byte} {c : Host.Cell} (h : c ∈ m.write a b) : c.1 = a ∨ c ∈ m := by
  unfold write at h
  split at h
  · exact .inr (List.mem_of_mem_filter h)
  · rcases mem_insertCell.1 h with rfl | h
    · exact .inl rfl
    · exact .inr (List.mem_of_mem_filter h)

end Memory

@[simp] theorem bytes_length (c : ScanState) : c.bytes.length = c.blen := by simp [ScanState.bytes]

/-- `BufAppend` adds its byte at the end of `BUF[0..BLEN-1]` (10_state.md R22). -/
@[simp] theorem bytes_bufAppend (c : ScanState) (b : Byte) : (c.bufAppend b).bytes = c.bytes ++ [b] := by
  simp only [ScanState.bytes, bufAppend_blen, bufAppend_buf, List.range_succ, List.map_append, List.map_cons,
    List.map_nil, Memory.read_write_same]
  congr 1
  refine List.map_congr_left fun i hi => Memory.read_write_ne _ _ ?_
  exact (List.mem_range.1 hi).ne

/-- `BufClear` empties it (10_state.md R22). -/
@[simp] theorem bytes_bufClear (c : ScanState) : c.bufClear.bytes = [] := rfl

@[simp] theorem bytes_deliver (c : ScanState) : (deliver c).1.bytes = [] := rfl

@[simp] theorem bytes_reset : ScanState.reset.bytes = [] := rfl

/-- The invariant's part about `BUF`, apart from the row of the phase. -/
def ScanState.BufOk (c : ScanState) : Prop := c.buf.wf ∧ ∀ cell ∈ c.buf, cell.1 < c.blen

theorem bufOk_bufAppend {c : ScanState} (h : c.BufOk) (b : Byte) : (c.bufAppend b).BufOk := by
  refine ⟨Memory.wf_write h.1 _ _, fun cell hc => ?_⟩
  rcases Memory.mem_write hc with e | hc
  · simp [e]
  · exact Nat.lt_succ_of_lt (h.2 cell hc)

theorem bufOk_of_nil {c : ScanState} (h : c.buf = []) : c.BufOk := by
  refine ⟨?_, ?_⟩ <;> rw [h]
  · exact Memory.wf_nil
  · simp

end Sys2Proof.Machine
end

