-- ==== Sys2Proof/Laws/Ops.lean ====
section
/-! SUPPORT. What each shared operation of the scanner can do, said once: the step of `SCANB` row by row, and the loop of `FEED`. -/

namespace Sys2Proof.Machine

open Sys2Proof.Config

theorem exec_scanb (b : Byte) (s : State) : exec (.scanb b) s = .next (s.afterScan (scanStep b s.scan)) := rfl

theorem exec_feed (chunk : List Byte) (s : State) : exec (.feed chunk) s = .next (feedChunk chunk s) := rfl

/-- Everything a `SCANB` step can do to the registers (42_scanner.md R139): nine kinds of row. -/
theorem scanStep_cases (b : Byte) (c : ScanState) :
    (c.phase = .seek0 ∧ b = MARK0 ∧ scanStep b c = quiet ((c.count.bufAppend MARK0).setPhase .seek1)) ∨
    (c.phase = .seek0 ∧ b ≠ MARK0 ∧ scanStep b c = quiet (c.count.setPhase .seek0)) ∨
    (c.phase = .seek1 ∧ b = MARK1 ∧ scanStep b c = quiet ((c.count.bufAppend MARK1).setPhase .hdrStation)) ∨
    (c.phase = .seek1 ∧ b = MARK0 ∧ scanStep b c = quiet (c.count.setPhase .seek1)) ∨
    (c.phase = .seek1 ∧ b ≠ MARK1 ∧ b ≠ MARK0 ∧ scanStep b c = quiet (c.count.bufClear.setPhase .seek0)) ∨
    (c.phase = .hdrStation ∧ scanStep b c = quiet ((c.count.bufAppend b).setPhase .hdrLen)) ∨
    (c.phase = .hdrLen ∧ scanStep b c =
      quiet (((c.count.bufAppend b).setRem b).setPhase (if b = 0#8 then .cksum else .bodyFn))) ∨
    (c.phase = .bodyFn ∧ scanStep b c = quiet (c.count.bufAppend b).takeLogical) ∨
    (c.phase = .body ∧ b = STUFF ∧ scanStep b c = quiet ((c.count.bufAppend b).setPhase .bodyEsc)) ∨
    (c.phase = .body ∧ b ≠ STUFF ∧ scanStep b c = quiet (c.count.bufAppend b).takeLogical) ∨
    (c.phase = .bodyEsc ∧ b = STUFF ∧ scanStep b c = quiet (c.count.bufAppend b).takeLogical) ∨
    (((c.phase = .bodyEsc ∧ b ≠ STUFF) ∨ c.phase = .cksum) ∧ scanStep b c = deliver (c.count.bufAppend b)) := by
  unfold scanStep
  split <;> rename_i h
  · by_cases hb : b = MARK0
    · exact .inl ⟨h, hb, by simp [hb, rowSeek0Mark0]⟩
    · exact .inr (.inl ⟨h, hb, by simp [hb, rowSeek0Other]⟩)
  · by_cases h1 : b = MARK1
    · exact .inr (.inr (.inl ⟨h, h1, by simp [h1, rowSeek1Mark1]⟩))
    · by_cases h0 : b = MARK0
      · exact .inr (.inr (.inr (.inl ⟨h, h0, by rw [if_neg h1, if_pos h0]; rfl⟩)))
      · exact .inr (.inr (.inr (.inr (.inl ⟨h, h1, h0, by simp [h1, h0, rowSeek1Other]⟩))))
  · exact .inr (.inr (.inr (.inr (.inr (.inl ⟨h, rfl⟩)))))
  · refine .inr (.inr (.inr (.inr (.inr (.inr (.inl ⟨h, ?_⟩))))))
    by_cases hb : b = 0#8
    · subst hb; rfl
    · simp [hb, rowHdrLenNonzero]
  · exact .inr (.inr (.inr (.inr (.inr (.inr (.inr (.inl ⟨h, rfl⟩)))))))
  · refine .inr (.inr (.inr (.inr (.inr (.inr (.inr (.inr ?_)))))))
    by_cases hb : b = STUFF
    · exact .inl ⟨h, hb, by simp [hb, rowBodyMark0]⟩
    · exact .inr (.inl ⟨h, hb, by simp [hb, rowBodyOther]⟩)
  · refine .inr (.inr (.inr (.inr (.inr (.inr (.inr (.inr (.inr (.inr ?_)))))))))
    by_cases hb : b = STUFF
    · exact .inl ⟨h, hb, by simp [hb, rowBodyEscMark0]⟩
    · exact .inr ⟨.inl ⟨h, hb⟩, by simp [hb, rowBodyEscOther]⟩
  · exact .inr (.inr (.inr (.inr (.inr (.inr (.inr (.inr (.inr (.inr (.inr ⟨.inr h, rfl⟩))))))))))

/-- Every `SCANB` step counts its byte (10_state.md R24). -/
theorem scanStep_consumed (b : Byte) (c : ScanState) : (scanStep b c).1.consumed = c.consumed + 1 := by
  rcases scanStep_cases b c with ⟨-, -, e⟩ | ⟨-, -, e⟩ | ⟨-, -, e⟩ | ⟨-, -, e⟩ | ⟨-, -, -, e⟩ | ⟨-, e⟩ | ⟨-, e⟩ |
    ⟨-, e⟩ | ⟨-, -, e⟩ | ⟨-, -, e⟩ | ⟨-, -, e⟩ | ⟨-, e⟩ <;> rw [e] <;> simp

@[simp] theorem scanStream_nil (s : State) : scanStream [] s = some (s, []) := rfl

theorem scanStream_cons (b : Byte) (rest : List Byte) (s : State) :
    scanStream (b :: rest) s =
      (scanStream rest (s.afterScan (scanStep b s.scan))).map
        fun r => (r.1, (scanStep b s.scan).2.frames ++ r.2) := rfl

/-- A stream of bytes is always accepted whole (42_scanner.md R130). -/
theorem scanStream_some (bs : List Byte) (s : State) : ∃ r, scanStream bs s = some r := by
  induction bs generalizing s with
  | nil => exact ⟨_, rfl⟩
  | cons b bs ih =>
    obtain ⟨r, hr⟩ := ih (s.afterScan (scanStep b s.scan))
    exact ⟨_, by rw [scanStream_cons, hr]; rfl⟩

theorem scanStream_append (xs ys : List Byte) (s : State) :
    scanStream (xs ++ ys) s =
      (scanStream xs s).bind fun r => (scanStream ys r.1).map fun q => (q.1, r.2 ++ q.2) := by
  induction xs generalizing s with
  | nil => simp
  | cons b xs ih =>
    rw [List.cons_append, scanStream_cons, scanStream_cons, ih]
    cases scanStream xs (s.afterScan (scanStep b s.scan)) with
    | none => rfl
    | some r =>
      simp only [Option.bind_some, Option.map_some]
      cases scanStream ys r.1 <;> simp

/-- The end of a chunk writes the `FEED` port alone (42_scanner.md R145). -/
theorem feedEnd_cases (total used : Nat) (s : State) :
    (total > 0 ∧ s.scan.phase = .seek0 ∧ s.feedEnd total used = s.returnFeed (.garbage total) used) ∨
      (¬ (total > 0 ∧ s.scan.phase = .seek0) ∧ s.feedEnd total used = s.returnFeed .needMoreData used) := by
  by_cases h : total > 0 ∧ s.scan.phase = .seek0
  · exact .inl ⟨h.1, h.2, if_pos h⟩
  · exact .inr ⟨h, if_neg h⟩

theorem feedNext_nil (total used : Nat) (s : State) :
    feedNext total used [] s = s.clearOut.finish.feedEnd total used := rfl

/-- Everything a step of `FEED` can do with a byte left: deliver, end the chunk, or go on (42_scanner.md R145). -/
theorem feedNext_cases (total used : Nat) (b : Byte) (rest : List Byte) (s : State) :
    (∃ f, (scanStep b s.scan).2 = .frameReady f ∧
      feedNext total used (b :: rest) s =
        (s.afterScan (scanStep b s.scan)).finish.returnFeed (.frameReady f) (used + 1)) ∨
    ((scanStep b s.scan).2 = .none ∧ rest = [] ∧
      feedNext total used (b :: rest) s = (s.afterScan (scanStep b s.scan)).finish.feedEnd total (used + 1)) ∨
    ((scanStep b s.scan).2 = .none ∧ rest ≠ [] ∧
      feedNext total used (b :: rest) s = (s.afterScan (scanStep b s.scan)).goOn (.feed total (used + 1) rest)) := by
  cases h : (scanStep b s.scan).2 with
  | frameReady f => exact .inl ⟨f, rfl, by simp [feedNext, h]⟩
  | none =>
    cases rest with
    | nil => exact .inr (.inl ⟨rfl, rfl, by simp [feedNext, h]⟩)
    | cons c more => exact .inr (.inr ⟨rfl, by simp, by simp [feedNext, h]⟩)

/-- A step of `FEED` never touches the operation port. -/
theorem feedNext_queue (total used : Nat) (bytes : List Byte) (s : State) :
    (feedNext total used bytes s).queue = s.queue := by
  have hEnd (n : Nat) (t : State) : (t.feedEnd total n).queue = t.queue := by
    rcases feedEnd_cases total n t with ⟨-, -, e⟩ | ⟨-, e⟩ <;> rw [e] <;> rfl
  cases bytes with
  | nil => rw [feedNext_nil, hEnd]; rfl
  | cons b rest =>
    rcases feedNext_cases total used b rest s with ⟨f, -, e⟩ | ⟨-, -, e⟩ | ⟨-, -, e⟩ <;> rw [e]
    · rfl
    · rw [hEnd]; rfl
    · rfl

/-- While something runs, a step goes on with it and takes no packet. -/
theorem step_running {s : State} {r : Running} (h : s.running = some r) : step s = .next (resume r s) := by
  simp [step, h]

theorem complete_done {s : State} (h : s.running = none) (fuel : Nat) : complete fuel s = some (s, s.out.event.frames) := by
  cases fuel <;> simp [complete, h]

theorem complete_running {s : State} {r : Running} (h : s.running = some r) (fuel : Nat) :
    complete (fuel + 1) s = (complete fuel (resume r s)).map fun q => (q.1, s.out.event.frames ++ q.2) := by
  simp [complete, h, step_running h]

end Sys2Proof.Machine
end

