-- ==== Sys2Proof/Laws/PerInstr.lean ====
section
/-! SUPPORT. Statements made per instruction: the family RoundTrip, decoding of an instruction's own packet. -/

namespace Sys2Proof.Laws.RoundTrip

open Sys2Proof.Config Sys2Proof.Machine

/-- The packet of a well-formed instruction decodes to it. -/
def Statement (i : Instr) : Prop := i.wellFormed = true → decode (encode i) = .ok i

theorem dropLast_concat_getLastD (r : List Byte) (c : Byte) :
    (r ++ [c]).dropLast = r ∧ (r ++ [c]).getLastD 0#8 = c := by
  constructor
  · simp
  · rw [List.getLastD_eq_getLast?, List.getLast?_concat]
    rfl

theorem frame (station length function : Byte) (region : List Byte) (checksum : Byte) :
    Statement (.frame station length function region checksum) := by
  intro _
  obtain ⟨h1, h2⟩ := dropLast_concat_getLastD region checksum
  cases region with
  | nil => rfl
  | cons r rs => simpa [encode, decode, frameBytes, frameHead, decodeWire] using ⟨h1, h2⟩

theorem mark : Statement .mark := fun _ => rfl
theorem stuffPair : Statement .stuffPair := fun _ => rfl
theorem enc (station function : Byte) (payload : List Byte) : Statement (.enc station function payload) := fun _ => rfl
theorem dec (raw : List Byte) (expectFn : Byte) : Statement (.dec raw expectFn) := fun _ => rfl
theorem scanb (b : Byte) : Statement (.scanb b) := fun _ => rfl
theorem scanr : Statement .scanr := fun _ => rfl
theorem feed (chunk : List Byte) : Statement (.feed chunk) := fun _ => rfl
theorem roundtrip (station function : Byte) (payload : List Byte) :
    Statement (.roundtrip station function payload) := fun _ => rfl

theorem scanbSeek0Mark0 : Statement .scanbSeek0Mark0 := fun _ => rfl
theorem scanbSeek0Other (b : Byte) : Statement (.scanbSeek0Other b) := by
  intro h
  have h : b ≠ MARK0 := by simpa [Instr.wellFormed] using h
  simp [encode, decode, decodeDispatch, h]
theorem scanbSeek1Mark1 : Statement .scanbSeek1Mark1 := fun _ => rfl
theorem scanbSeek1Mark0 : Statement .scanbSeek1Mark0 := fun _ => rfl
theorem scanbSeek1Other (b : Byte) : Statement (.scanbSeek1Other b) := by
  intro h
  have h : b ≠ MARK0 ∧ b ≠ MARK1 := by simpa [Instr.wellFormed] using h
  simp [encode, decode, decodeDispatch, h.1, h.2]
theorem scanbHdrStationAny (b : Byte) : Statement (.scanbHdrStationAny b) := fun _ => rfl
theorem scanbHdrLenZero : Statement .scanbHdrLenZero := fun _ => rfl
theorem scanbHdrLenNonzero (b : Byte) : Statement (.scanbHdrLenNonzero b) := by
  intro h
  have h : b ≠ 0#8 := by simpa [Instr.wellFormed] using h
  simp [encode, decode, decodeDispatch, h]
theorem scanbBodyFnAny (b : Byte) : Statement (.scanbBodyFnAny b) := fun _ => rfl
theorem scanbBodyMark0 : Statement .scanbBodyMark0 := fun _ => rfl
theorem scanbBodyOther (b : Byte) : Statement (.scanbBodyOther b) := by
  intro h
  have h : b ≠ STUFF := by simpa [Instr.wellFormed] using h
  simp [encode, decode, decodeDispatch, h]
theorem scanbBodyEscMark0 : Statement .scanbBodyEscMark0 := fun _ => rfl
theorem scanbBodyEscOther (b : Byte) : Statement (.scanbBodyEscOther b) := by
  intro h
  have h : b ≠ STUFF := by simpa [Instr.wellFormed] using h
  simp [encode, decode, decodeDispatch, h]
theorem scanbCksumAny (b : Byte) : Statement (.scanbCksumAny b) := fun _ => rfl

theorem ok (record : ResponseFrame) : Statement (.ok record) := fun _ => rfl
theorem malformedFrame : Statement .malformedFrame := fun _ => rfl
theorem checksumMismatch : Statement .checksumMismatch := fun _ => rfl
theorem unexpectedFunctionCode : Statement .unexpectedFunctionCode := fun _ => rfl

theorem needMoreData (used : Nat) : Statement (.needMoreData used) := by
  intro _
  simp [encode, decode, decodeOutcome, countBytes]

theorem frameReady (f : List Byte) (used : Nat) : Statement (.frameReady f used) := by
  intro h
  have h : f.length ≤ MAX_FRAME := by
    simp only [Instr.wellFormed, Bool.and_eq_true, decide_eq_true_eq] at h
    exact h.1.2
  have hn : (BitVec.ofNat 8 f.length).toNat + 256 * (BitVec.ofNat 8 (f.length / 256)).toNat = f.length := by
    simp only [MAX_FRAME] at h
    simp only [BitVec.toNat_ofNat]
    omega
  simp only [encode, decode, decodeOutcome, countBytes, hn]
  simp

theorem garbage (k : Nat) : Statement (.garbage k) := by
  intro _
  simp [encode, decode, decodeOutcome, countBytes]

theorem phaseSeek0 : Statement .phaseSeek0 := fun _ => rfl
theorem phaseSeek1 : Statement .phaseSeek1 := fun _ => rfl
theorem phaseHdrStation : Statement .phaseHdrStation := fun _ => rfl
theorem phaseHdrLen : Statement .phaseHdrLen := fun _ => rfl
theorem phaseBodyFn : Statement .phaseBodyFn := fun _ => rfl
theorem phaseBody : Statement .phaseBody := fun _ => rfl
theorem phaseBodyEsc : Statement .phaseBodyEsc := fun _ => rfl
theorem phaseCksum : Statement .phaseCksum := fun _ => rfl

end Sys2Proof.Laws.RoundTrip
end

