-- ==== Sys2Proof/Tests/Slice0.lean ====
section
/-! SUPPORT. Tests whose expected results are the vectors of 95_test_vectors.md (named beside each) or words written out from the tables of 30_encoding.md; and a state or operands that meet the premises of each statement. -/

namespace Sys2Proof.Tests

open Sys2Proof.Machine Sys2Proof.Config

/-- A scanner written as 95_test_vectors.md writes it: `PHASE / BUF[0..BLEN) / REM / CONSUMED`. -/
def sc (p : Phase) (bs : List Byte) (rem : Byte) (consumed : Nat) : ScanState :=
  ⟨p, Memory.ofBytes bs, bs.length, rem, consumed⟩

/-- A machine with this scanner, nothing issued and nothing running. -/
def st (c : ScanState) : State := ⟨c, Outputs.idle, [], none⟩

/-- The state an outcome holds, if it is a next state. -/
def nextOf : Host.Outcome State Fault Refusal → Option State
  | .next s => some s
  | .fault _ => none
  | .refused _ => none

/-- The scanner and the event after an instruction. -/
def scanOf (i : Instr) (c : ScanState) : Option (ScanState × Event) :=
  (nextOf (exec i (st c))).map fun t => (t.scan, t.out.event)

/-- The scanner and the `FEED` port after an instruction with all its steps. -/
def feedOf (i : Instr) (c : ScanState) : Option (ScanState × Option FeedOut) :=
  (runWhole i (st c)).map fun r => (r.1.scan, r.1.out.feed)

/-- The `ENC` and `DEC` ports after an instruction. -/
def portsOf (i : Instr) : Option (Option EncOut × Option DecOut) :=
  (nextOf (exec i State.reset)).map fun t => (t.out.enc, t.out.dec)

/-- E1, the shortest frame. -/
def e1 : List Byte := [0x10, 0x02, 0x02, 0x01, 0x20, 0x35]

/-- E2, one stuffed byte. -/
def e2 : List Byte := [0x10, 0x02, 0x02, 0x02, 0x20, 0x10, 0x10, 0x56]

/-- V1, the request frame that the source prints (section 1). -/
def v1 : List Byte := [0x10, 0x02, 0x02, 0x0a, 0x20, 0x00, 0xfe, 0x00, 0x00, 0x00, 0x00, 0x07, 0x00, 0x00, 0x43]

/-! ## Well-formed operands: for each check, a term it refuses -/

theorem test_wf_frame_accepts : (Instr.frame 0x02 0x02 0x20 [0x10, 0x10] 0x56).wellFormed = true := by decide
theorem test_wf_frame_refuses_region : (Instr.frame 0x02 0x02 0x20 [0x10] 0x46).wellFormed = false := by decide
theorem test_wf_frame_refuses_length : (Instr.frame 0x02 0x03 0x20 [0x00] 0x37).wellFormed = false := by decide
theorem test_wf_frame_refuses_checksum : (Instr.frame 0x02 0x01 0x20 [] 0x36).wellFormed = false := by decide
theorem test_wf_seek0Other_refuses : (Instr.scanbSeek0Other 0x10).wellFormed = false := by decide
theorem test_wf_seek1Other_refuses_mark0 : (Instr.scanbSeek1Other 0x10).wellFormed = false := by decide
theorem test_wf_seek1Other_refuses_mark1 : (Instr.scanbSeek1Other 0x02).wellFormed = false := by decide
theorem test_wf_hdrLenNonzero_refuses : (Instr.scanbHdrLenNonzero 0x00).wellFormed = false := by decide
theorem test_wf_bodyOther_refuses : (Instr.scanbBodyOther 0x10).wellFormed = false := by decide
theorem test_wf_bodyEscOther_refuses : (Instr.scanbBodyEscOther 0x10).wellFormed = false := by decide
theorem test_wf_ok_refuses : (Instr.ok ⟨0, 0, List.replicate 255 0, 0⟩).wellFormed = false := by
  simp only [Instr.wellFormed, List.length_replicate]; decide
theorem test_wf_frameReady_refuses_short : (Instr.frameReady [0x10, 0x02, 0x00, 0x00] 4).wellFormed = false := by decide
theorem test_wf_frameReady_refuses_long : (Instr.frameReady (List.replicate 515 0) 1).wellFormed = false := by
  simp only [Instr.wellFormed, List.length_replicate]; decide
theorem test_wf_frameReady_refuses_used : (Instr.frameReady e1 0).wellFormed = false := by decide
theorem test_wf_garbage_refuses : (Instr.garbage 0).wellFormed = false := by decide

/-! ## Decoding: a word of every row, bit by bit from its "encoding" in spec/opcode_table.json (R60, R61, R67, R73 to R76, R21) -/

theorem test_decode_frame : decode ⟨.wire, [0b00010000, 0b00000010, 0b00000010, 0b00000001, 0b00100000, 0b00110101]⟩ =
    .ok (.frame 0x02 0x01 0x20 [] 0x35) := by rfl
theorem test_decode_mark : decode ⟨.wire, [0b00010000, 0b00000010]⟩ = .ok .mark := by rfl
theorem test_decode_stuffPair : decode ⟨.wire, [0b00010000, 0b00010000]⟩ = .ok .stuffPair := by rfl
theorem test_decode_enc : decode ⟨.op, [0b00, 0x02, 0x37, 0x10, 0x02]⟩ = .ok (.enc 0x02 0x37 [0x10, 0x02]) := by rfl
theorem test_decode_dec : decode ⟨.op, [0b01, 0x37, 0x10, 0x02]⟩ = .ok (.dec [0x10, 0x02] 0x37) := by rfl
theorem test_decode_scanb : decode ⟨.op, [0b10, 0x99]⟩ = .ok (.scanb 0x99) := by rfl
theorem test_decode_scanr : decode ⟨.op, [0b11]⟩ = .ok .scanr := by rfl
theorem test_decode_feed : decode ⟨.pseudo, [0, 0x06, 0x15]⟩ = .ok (.feed [0x06, 0x15]) := by rfl
theorem test_decode_roundtrip : decode ⟨.pseudo, [1, 0x02, 0x20, 0x10]⟩ = .ok (.roundtrip 0x02 0x20 [0x10]) := by rfl
theorem test_decode_seek0_mark0 : decode ⟨.scanDispatch, [0b000, 0b00010000]⟩ = .ok .scanbSeek0Mark0 := by rfl
theorem test_decode_seek0_other : decode ⟨.scanDispatch, [0b000, 0b00000010]⟩ = .ok (.scanbSeek0Other 0x02) := by rfl
theorem test_decode_seek1_mark1 : decode ⟨.scanDispatch, [0b001, 0b00000010]⟩ = .ok .scanbSeek1Mark1 := by rfl
theorem test_decode_seek1_mark0 : decode ⟨.scanDispatch, [0b001, 0b00010000]⟩ = .ok .scanbSeek1Mark0 := by rfl
theorem test_decode_seek1_other : decode ⟨.scanDispatch, [0b001, 0b00000101]⟩ = .ok (.scanbSeek1Other 0x05) := by rfl
theorem test_decode_hdrStation : decode ⟨.scanDispatch, [0b010, 0b00010000]⟩ = .ok (.scanbHdrStationAny 0x10) := by rfl
theorem test_decode_hdrLen_zero : decode ⟨.scanDispatch, [0b011, 0b00000000]⟩ = .ok .scanbHdrLenZero := by rfl
theorem test_decode_hdrLen_nonzero : decode ⟨.scanDispatch, [0b011, 0b00010000]⟩ = .ok (.scanbHdrLenNonzero 0x10) := by rfl
theorem test_decode_bodyFn : decode ⟨.scanDispatch, [0b100, 0b00010000]⟩ = .ok (.scanbBodyFnAny 0x10) := by rfl
theorem test_decode_body_mark0 : decode ⟨.scanDispatch, [0b101, 0b00010000]⟩ = .ok .scanbBodyMark0 := by rfl
theorem test_decode_body_other : decode ⟨.scanDispatch, [0b101, 0b00000010]⟩ = .ok (.scanbBodyOther 0x02) := by rfl
theorem test_decode_bodyEsc_mark0 : decode ⟨.scanDispatch, [0b110, 0b00010000]⟩ = .ok .scanbBodyEscMark0 := by rfl
theorem test_decode_bodyEsc_other : decode ⟨.scanDispatch, [0b110, 0b00000010]⟩ = .ok (.scanbBodyEscOther 0x02) := by rfl
theorem test_decode_cksum : decode ⟨.scanDispatch, [0b111, 0b00010000]⟩ = .ok (.scanbCksumAny 0x10) := by rfl
theorem test_decode_ok : decode ⟨.decStatus, [0b00, 0x02, 0x20, 0x56, 0x10]⟩ = .ok (.ok ⟨0x02, 0x20, [0x10], 0x56⟩) := by rfl
theorem test_decode_malformedFrame : decode ⟨.decStatus, [0b01]⟩ = .ok .malformedFrame := by rfl
theorem test_decode_checksumMismatch : decode ⟨.decStatus, [0b10]⟩ = .ok .checksumMismatch := by rfl
theorem test_decode_unexpectedFunctionCode : decode ⟨.decStatus, [0b11]⟩ = .ok .unexpectedFunctionCode := by rfl
theorem test_decode_needMoreData : decode ⟨.feedOutcome, [0b00, 0, 0]⟩ = .ok (.needMoreData 2) := by rfl
theorem test_decode_frameReady :
    decode ⟨.feedOutcome, [0b01, 5, 0, 0x10, 0x02, 0x07, 0x00, 0x19, 0]⟩ =
      .ok (.frameReady [0x10, 0x02, 0x07, 0x00, 0x19] 1) := by rfl
theorem test_decode_garbage : decode ⟨.feedOutcome, [0b10, 0, 0, 0]⟩ = .ok (.garbage 3) := by rfl
theorem test_decode_phaseSeek0 : decode ⟨.phaseCode, [0b000]⟩ = .ok .phaseSeek0 := by rfl
theorem test_decode_phaseSeek1 : decode ⟨.phaseCode, [0b001]⟩ = .ok .phaseSeek1 := by rfl
theorem test_decode_phaseHdrStation : decode ⟨.phaseCode, [0b010]⟩ = .ok .phaseHdrStation := by rfl
theorem test_decode_phaseHdrLen : decode ⟨.phaseCode, [0b011]⟩ = .ok .phaseHdrLen := by rfl
theorem test_decode_phaseBodyFn : decode ⟨.phaseCode, [0b100]⟩ = .ok .phaseBodyFn := by rfl
theorem test_decode_phaseBody : decode ⟨.phaseCode, [0b101]⟩ = .ok .phaseBody := by rfl
theorem test_decode_phaseBodyEsc : decode ⟨.phaseCode, [0b110]⟩ = .ok .phaseBodyEsc := by rfl
theorem test_decode_phaseCksum : decode ⟨.phaseCode, [0b111]⟩ = .ok .phaseCksum := by rfl

/-- Codes that no row has are refused (R75: outcome 3 is unused). -/
theorem test_decode_refuses_unused :
    decode ⟨.feedOutcome, [3]⟩ = .error (.unknownCode 3) ∧ decode ⟨.op, [4]⟩ = .error (.unknownCode 4) ∧
      decode ⟨.wire, [0x02, 0x10]⟩ = .error .notWireUnit ∧ decode ⟨.op, [0b10]⟩ = .error .operands := ⟨rfl, rfl, rfl, rfl⟩

/-- Words as spec/opcode_table.json numbers them ("match", with field bits where the row has them). -/
theorem test_table_words :
    decodeTableWord 16 0x1002 = some .mark ∧ decodeTableWord 16 0x1010 = some .stuffPair ∧
      decodeTableWord 8 0x2 = some (.scanb 0) ∧ decodeTableWord 8 0x7 = some .phaseCksum ∧
      decodeTableWord 16 0x102 = some .scanbSeek1Mark1 ∧ decodeTableWord 16 0x6ff = some (.scanbBodyEscOther 0xff) ∧
      decodeTableWord 16 0x300 = some .scanbHdrLenZero :=
  ⟨rfl, rfl, rfl, rfl, rfl, rfl, rfl⟩

/-- A table word placed for the fetch runs as the first instruction, a dispatch word in its own phase. -/
theorem test_withFetchWord_runs :
    ((nextOf (step (State.reset.withFetchWord 8 0x2))).map fun t => t.scan.consumed) = some 1 ∧
      ((nextOf (step (State.reset.withFetchWord 16 0x735))).map fun t => t.out.event) =
        some (.frameReady [0x10, 0x02, 0x00, 0x00, 0x35]) := by decide

/-! ## The sequences (section 2.1) -/

theorem test_sum8 : sum8 [] = 0 ∧ sum8 [0xff, 0x01] = 0 ∧ sum8 v1.dropLast = 0x43 := by decide
theorem test_stuff : stuff [0x10, 0x02] = [0x10, 0x10, 0x02] ∧ stuff [0x02] = [0x02] := by decide
theorem test_unstuff : unstuff [0x02, 0x10, 0x10] = some [0x02, 0x10] ∧ unstuff [0x00, 0x10] = none ∧
    unstuff [0x10, 0x02] = none ∧ unstuff [0x10, 0x10, 0x10] = none := by decide

/-! ## `ENC`, `DEC`, `ROUNDTRIP` (sections 2.2, 2.3) -/

/-- V1: the one request whose bytes the source prints. -/
theorem test_enc_v1 :
    portsOf (.enc 0x02 0x20 [0x00, 0xfe, 0x00, 0x00, 0x00, 0x00, 0x07, 0x00, 0x00]) = some (some (.frame v1), none) := by
  decide

/-- E7: STATION and FUNCTION `10` are not doubled. -/
theorem test_enc_e7 :
    portsOf (.enc 0x10 0x10 [0x10]) = some (some (.frame [0x10, 0x02, 0x10, 0x02, 0x10, 0x10, 0x10, 0x54]), none) := by
  decide

/-- DV2, DV6: a pair is collapsed, CHECKSUM `10` is read by position. -/
theorem test_dec_success :
    portsOf (.dec e2 0x20) = some (none, some (.ok ⟨0x02, 0x20, [0x10], 0x56⟩)) ∧
      portsOf (.dec [0x10, 0x02, 0x02, 0x02, 0x20, 0xda, 0x10] 0x20) =
        some (none, some (.ok ⟨0x02, 0x20, [0xda], 0x10⟩)) := by decide

/-- DV8, DV10, DV11, DV12, DV13, DV14b, DV14c, DV14d: one vector for each check, in their order. -/
theorem test_dec_failures :
    decodeFrame [0x10, 0x02, 0x02, 0x14] 0x20 = .error .malformedFrame ∧
      decodeFrame [0x10, 0x03, 0x02, 0x0a, 0x20, 0x00, 0xfe, 0x00, 0x00, 0x00, 0x00, 0x07, 0x00, 0x00, 0x43] 0x20 =
        .error .checksumMismatch ∧
      decodeFrame [0x10, 0x03, 0x02, 0x01, 0x20, 0x36] 0x20 = .error .malformedFrame ∧
      decodeFrame [0x10, 0x02, 0x02, 0x00, 0x14] 0x20 = .error .malformedFrame ∧
      decodeFrame [0x10, 0x02, 0x02, 0x02, 0x20, 0x10, 0x46] 0x20 = .error .malformedFrame ∧
      decodeFrame [0x10, 0x02, 0x02, 0x03, 0x20, 0x00, 0x37] 0x20 = .error .malformedFrame ∧
      decodeFrame [0x10, 0x02, 0x02, 0x03, 0x20, 0x00, 0x37] 0x21 = .error .malformedFrame ∧
      decodeFrame e2 0x21 = .error .unexpectedFunctionCode := by decide

/-- Q1 with E2: the first step is `ENC`, the second `DEC`. -/
theorem test_roundtrip :
    portsOf (.roundtrip 0x02 0x20 [0x10]) = some (some (.frame e2), none) ∧
      ((runWhole (.roundtrip 0x02 0x20 [0x10]) State.reset).map fun r => (r.1.out.enc, r.1.out.dec)) =
        some (none, some (.ok ⟨0x02, 0x20, [0x10], 0x56⟩)) := by decide

/-! ## Status, outcome and phase rows (R74, R75, R21) -/

theorem test_status_codes :
    (DecOut.ok ⟨0, 0, [], 0⟩).status = 0b00 ∧ (DecOut.error .malformedFrame).status = 0b01 ∧
      (DecOut.error .checksumMismatch).status = 0b10 ∧ (DecOut.error .unexpectedFunctionCode).status = 0b11 := by decide
theorem test_outcome_codes :
    ScanOutcome.needMoreData.code = 0b00 ∧ (ScanOutcome.frameReady []).code = 0b01 ∧ (ScanOutcome.garbage 1).code = 0b10 ∧
      Event.none.code = 0 ∧ (Event.frameReady []).code = 1 := by decide
theorem test_ok_row : portsOf (.ok ⟨0x02, 0x20, [], 0x35⟩) = some (none, some (.ok ⟨0x02, 0x20, [], 0x35⟩)) := by decide
theorem test_error_rows :
    portsOf .malformedFrame = some (none, some (.error .malformedFrame)) ∧
      portsOf .checksumMismatch = some (none, some (.error .checksumMismatch)) ∧
      portsOf .unexpectedFunctionCode = some (none, some (.error .unexpectedFunctionCode)) := by decide
theorem test_outcome_rows :
    feedOf (.needMoreData 2) ScanState.reset = some (ScanState.reset, some ⟨.needMoreData, 2⟩) ∧
      feedOf (.frameReady e1 7) ScanState.reset = some (ScanState.reset, some ⟨.frameReady e1, 7⟩) ∧
      feedOf (.garbage 3) ScanState.reset = some (ScanState.reset, some ⟨.garbage 3, 3⟩) := by decide
theorem test_phase_rows :
    ([Instr.phaseSeek0, .phaseSeek1, .phaseHdrStation, .phaseHdrLen, .phaseBodyFn, .phaseBody, .phaseBodyEsc,
        .phaseCksum].map fun i => (scanOf i (sc .body [] 1 0)).map fun r => (r.1.phase.code, docPhase r.1.phase)) =
      [some (0, .seeking), some (1, .seeking), some (2, .accumulating), some (3, .accumulating), some (4, .accumulating),
        some (5, .accumulating), some (6, .accumulating), some (7, .checksum)] := by decide

/-! ## The scanner, one step each (section 2.4) -/

theorem test_seek0_mark0_sv2 : scanOf .scanbSeek0Mark0 (sc .seek0 [] 0 1) = some (sc .seek1 [0x10] 0 2, .none) := by decide
theorem test_seek0_other_sv3 : scanOf (.scanbSeek0Other 0x02) (sc .seek0 [] 0 0) = some (sc .seek0 [] 0 1, .none) := by decide
theorem test_seek1_mark1_sv4 :
    scanOf .scanbSeek1Mark1 (sc .seek1 [0x10] 0 2) = some (sc .hdrStation [0x10, 0x02] 0 3, .none) := by decide
theorem test_seek1_mark0_sv5 : scanOf .scanbSeek1Mark0 (sc .seek1 [0x10] 0 2) = some (sc .seek1 [0x10] 0 3, .none) := by decide
theorem test_seek1_other_sv6 : scanOf (.scanbSeek1Other 0x05) (sc .seek1 [0x10] 0 2) = some (sc .seek0 [] 0 3, .none) := by decide
theorem test_hdrStation_sv7 :
    scanOf (.scanbHdrStationAny 0x10) (sc .hdrStation [0x10, 0x02] 0 3) =
      some (sc .hdrLen [0x10, 0x02, 0x10] 0 4, .none) := by decide
theorem test_hdrLen_nonzero_sv8 :
    scanOf (.scanbHdrLenNonzero 0x0a) (sc .hdrLen [0x10, 0x02, 0x02] 0 4) =
      some (sc .bodyFn [0x10, 0x02, 0x02, 0x0a] 10 5, .none) := by decide
theorem test_hdrLen_zero_sv9 :
    scanOf .scanbHdrLenZero (sc .hdrLen [0x10, 0x02, 0x07] 0 4) =
      some (sc .cksum [0x10, 0x02, 0x07, 0x00] 0 5, .none) := by decide
theorem test_bodyFn_sv11 :
    scanOf (.scanbBodyFnAny 0x20) (sc .bodyFn [0x10, 0x02, 0x02, 0x01] 1 5) =
      some (sc .cksum [0x10, 0x02, 0x02, 0x01, 0x20] 0 6, .none) := by decide
theorem test_bodyFn_sv12 :
    scanOf (.scanbBodyFnAny 0x10) (sc .bodyFn [0x10, 0x02, 0x02, 0x02] 2 5) =
      some (sc .body [0x10, 0x02, 0x02, 0x02, 0x10] 1 6, .none) := by decide
theorem test_body_other_sv13 :
    scanOf (.scanbBodyOther 0x55) (sc .body [0x10, 0x02, 0x02, 0x02, 0x20] 1 6) =
      some (sc .cksum [0x10, 0x02, 0x02, 0x02, 0x20, 0x55] 0 7, .none) := by decide
theorem test_body_mark0_sv15 :
    scanOf .scanbBodyMark0 (sc .body [0x10, 0x02, 0x02, 0x02, 0x20] 1 6) =
      some (sc .bodyEsc [0x10, 0x02, 0x02, 0x02, 0x20, 0x10] 1 7, .none) := by decide
theorem test_bodyEsc_mark0_sv17 :
    scanOf .scanbBodyEscMark0 (sc .bodyEsc [0x10, 0x02, 0x02, 0x03, 0x20, 0x10] 2 7) =
      some (sc .body [0x10, 0x02, 0x02, 0x03, 0x20, 0x10, 0x10] 1 8, .none) := by decide
theorem test_bodyEsc_other_sv18 :
    scanOf (.scanbBodyEscOther 0x05) (sc .bodyEsc [0x10, 0x02, 0x02, 0x03, 0x20, 0x10] 2 7) =
      some (sc .seek0 [] 0 8, .frameReady [0x10, 0x02, 0x02, 0x03, 0x20, 0x10, 0x05]) := by decide
theorem test_cksum_sv20 :
    scanOf (.scanbCksumAny 0x10) (sc .cksum [0x10, 0x02, 0x02, 0x01, 0x20] 0 6) =
      some (sc .seek0 [] 0 7, .frameReady [0x10, 0x02, 0x02, 0x01, 0x20, 0x10]) := by decide
theorem test_scanb_sv16 :
    scanOf (.scanb 0x10) (sc .bodyEsc [0x10, 0x02, 0x02, 0x02, 0x20, 0x10] 1 7) =
      some (sc .cksum [0x10, 0x02, 0x02, 0x02, 0x20, 0x10, 0x10] 0 8, .none) := by decide
theorem test_scanb_sv10 :
    scanOf (.scanb 0xff) (sc .hdrLen [0x10, 0x02, 0x02] 0 4) =
      some (sc .bodyFn [0x10, 0x02, 0x02, 0xff] 255 5, .none) := by decide
theorem test_scanr_sv21 :
    scanOf .scanr (sc .body [0x10, 0x02, 0x02, 0x09, 0x20, 0x00, 0xfe] 6 7) = some (sc .seek0 [] 0 0, .none) := by decide

/-! ## Chunks (section 2.5) -/

theorem test_feed_f4 :
    feedOf (.feed [0x05, 0x06]) (sc .seek1 [0x10] 0 5) = some (sc .seek0 [] 0 7, some ⟨.garbage 2, 2⟩) := by decide

/-- F6: its first step is SV5's `SCANB(10)` and leaves five bytes for the steps after it (00_scope.md R12). -/
theorem test_feed_is_stepwise :
    ((nextOf (exec (.feed [0x10, 0x02, 0x02, 0x09, 0x20, 0x00]) (st (sc .seek1 [0x10] 0 8)))).map
        fun t => (t.scan, t.out.feed, t.running)) =
      some (sc .seek1 [0x10] 0 9, none, some (.feed 6 1 [0x02, 0x02, 0x09, 0x20, 0x00])) := by decide
theorem test_feed_f9 :
    feedOf (.feed ([0x06] ++ e1 ++ [0x10, 0x02, 0x02, 0x01, 0x21, 0x36])) ScanState.reset =
      some (sc .seek0 [] 0 7, some ⟨.frameReady e1, 7⟩) := by decide

/-- The last note of section 2.2 with E2: a frame fed whole is delivered whole. -/
theorem test_frame_e2 :
    feedOf (.frame 0x02 0x02 0x20 [0x10, 0x10] 0x56) ScanState.reset =
      some (sc .seek0 [] 0 8, some ⟨.frameReady e2, 8⟩) := by decide

/-- SV2 then SV4. -/
theorem test_mark : feedOf .mark ScanState.reset = some (sc .hdrStation [0x10, 0x02] 0 2, some ⟨.needMoreData, 2⟩) := by decide

/-- SV15 then SV16. -/
theorem test_stuffPair :
    feedOf .stuffPair (sc .body [0x10, 0x02, 0x02, 0x02, 0x20] 1 6) =
      some (sc .cksum [0x10, 0x02, 0x02, 0x02, 0x20, 0x10, 0x10] 0 8, some ⟨.needMoreData, 2⟩) := by decide

/-! ## Premises met: sequences, encoder, decoder -/

theorem witness_StuffingLaws :
    stuff [0x01, 0x10, 0x02] = [0x01] ++ List.replicate 2 STUFF ++ [0x02] ∧
      [0x01].getLast? ≠ some STUFF ∧ [0x02].head? ≠ some STUFF ∧ unstuff [0x01] = some [0x01] ∧
      stuff [0x01, 0x10, 0x02] = [0x01] ++ STUFF :: [0x10, 0x02] := by decide

theorem witness_UnstuffInvertsStuff :
    unstuff [0x10, 0x10] = some [0x10] ∧ unstuff [0x00, 0x10] = none ∧
      [0x00, 0x10] = [0x00] ++ List.replicate 1 STUFF ++ ([] : List Byte) := by decide

theorem witness_EncBuildsFrameOrRefuses :
    (List.replicate 254 (0x10 : Byte)).length ≤ MAX_PAYLOAD ∧ (List.replicate 255 (0x10 : Byte)).length > MAX_PAYLOAD := by
  simp only [List.length_replicate]; decide

theorem witness_EncodedFrameShape :
    ∃ t, exec (.enc 0x02 0x20 [0x10]) State.reset = .next t ∧ t.out.enc = some (.frame e2) := ⟨_, rfl, by decide⟩

/-- One buffer for each clause, at the boundary length where it has one. -/
theorem witness_DecReportsFirstFailingCheck :
    ([0x10, 0x02, 0x02, 0x14] : List Byte).length < 5 ∧
      ([0x10, 0x02, 0x02, 0x00, 0x15] : List Byte).getLast? ≠ some (sum8 [0x10, 0x02, 0x02, 0x00]) ∧
      ([0x10, 0x02, 0x02, 0x00, 0x14] : List Byte).getLast? = some (sum8 [0x10, 0x02, 0x02, 0x00]) ∧
      ([0x10, 0x03] : List Byte) ≠ [MARK0, MARK1] ∧
      ([0x10, 0x03, 0x02, 0x01, 0x20, 0x36] : List Byte).getLast? = some (sum8 [0x10, 0x03, 0x02, 0x01, 0x20]) ∧
      unstuff (([0x10, 0x02, 0x02, 0x02, 0x20, 0x10, 0x46] : List Byte).drop 5).dropLast = none ∧
      e1.getLast? = some (sum8 e1.dropLast) ∧ unstuff (e1.drop 5).dropLast = some [] ∧
      e1[2]? = some 0x02 ∧ e1[3]? = some 0x01 ∧ e1[4]? = some 0x20 ∧
      unstuff (([0x10, 0x02, 0x02, 0x03, 0x20, 0x00, 0x37] : List Byte).drop 5).dropLast = some [0x00] ∧
      (0x03 : Byte).toNat ≠ 1 + ([0x00] : List Byte).length := by decide

theorem witness_DecAcceptsExactlyEncodedFrames :
    ∃ t, exec (.dec e2 0x20) State.reset = .next t ∧ t.out.dec = some (.ok ⟨0x02, 0x20, [0x10], 0x56⟩) :=
  ⟨State.reset.returnDec (.ok ⟨0x02, 0x20, [0x10], 0x56⟩), rfl, rfl⟩

theorem witness_RoundTripReturnsOperands : (List.replicate 254 (0x10 : Byte)).length ≤ MAX_PAYLOAD := by
  rw [List.length_replicate]; decide

theorem witness_RoundTripStopsAtRefusal : (List.replicate 255 (0x10 : Byte)).length > MAX_PAYLOAD := by
  rw [List.length_replicate]; decide

/-- With the first bit of the first byte and the last bit of the last one. -/
theorem witness_SingleBitFlipIsChecksumMismatch :
    exec (.dec e1 0x20) State.reset = .next (State.reset.returnDec (.ok ⟨0x02, 0x20, [], 0x35⟩)) ∧
      0 < e1.length ∧ 5 < e1.length ∧ 0 < 8 ∧ 7 < 8 := ⟨rfl, by decide, by decide, by decide, by decide⟩

theorem witness_ExtraByteIsNeverAccepted :
    ∃ t, exec (.enc 0x02 0x20 []) State.reset = .next t ∧ t.out.enc = some (.frame e1) := ⟨_, rfl, by decide⟩

/-- Two states that differ in their outputs alone. -/
theorem witness_OutputsCarryNoMemory :
    (State.reset.raise .malformedFrame).scan = State.reset.scan ∧
      (State.reset.raise .malformedFrame).queue = State.reset.queue ∧
      (State.reset.raise .malformedFrame).running = State.reset.running ∧ State.reset.raise .malformedFrame ≠ State.reset := by
  decide

/-- An instruction of each form, and a `ROUNDTRIP` before its second step. -/
theorem witness_CodecLeavesScannerAlone :
    (∃ a b p, Instr.enc 0x02 0x20 [] = .enc a b p) ∧ (∃ raw e, Instr.dec e1 0x20 = .dec raw e) ∧
      (∃ r, Instr.ok ⟨0x02, 0x20, [], 0x35⟩ = .ok r) ∧ (∃ n, Instr.needMoreData 2 = .needMoreData n) ∧
      (∃ f n, Instr.frameReady e1 6 = .frameReady f n) ∧ (∃ k, Instr.garbage 3 = .garbage k) ∧
      (State.reset.goOn (.decode e1 0x20)).running = some (.decode e1 0x20) :=
  ⟨⟨_, _, _, rfl⟩, ⟨_, _, rfl⟩, ⟨_, rfl⟩, ⟨_, rfl⟩, ⟨_, _, rfl⟩, ⟨_, rfl⟩, rfl⟩

/-! ## Premises met: the scanner -/

theorem witness_SeekingHoldsFirstMarkerByte : State.reset.scan.phase = .seek0 ∧ (0x02 : Byte) ≠ MARK0 := by decide
theorem witness_SeekingCompletesOrDropsMarker :
    (st (sc .seek1 [0x10] 0 1)).scan.phase = .seek1 ∧ (0x05 : Byte) ≠ MARK1 ∧ (0x05 : Byte) ≠ MARK0 := by decide
theorem witness_StationIsStored : (st (sc .hdrStation [0x10, 0x02] 0 2)).scan.phase = .hdrStation := by decide
theorem witness_LengthLoadsRemaining : (st (sc .hdrLen [0x10, 0x02, 0x02] 0 3)).scan.phase = .hdrLen := by decide
theorem witness_FunctionIsOneLogicalByte :
    (st (sc .bodyFn [0x10, 0x02, 0x02, 0x01] 1 4)).scan.phase = .bodyFn ∧
      (st (sc .bodyFn [0x10, 0x02, 0x02, 0x01] 1 4)).scan.rem ≠ 0 := by decide
theorem witness_BodyByteOrPendingMarker :
    (st (sc .body [0x10, 0x02, 0x02, 0x02, 0x20] 1 5)).scan.phase = .body ∧
      (st (sc .body [0x10, 0x02, 0x02, 0x02, 0x20] 1 5)).scan.rem ≠ 0 ∧ (0x55 : Byte) ≠ STUFF := by decide
theorem witness_PairCountsOnceOrClosesCandidate :
    (st (sc .bodyEsc [0x10, 0x02, 0x02, 0x02, 0x20, 0x10] 1 6)).scan.phase = .bodyEsc ∧
      (st (sc .bodyEsc [0x10, 0x02, 0x02, 0x02, 0x20, 0x10] 1 6)).scan.rem ≠ 0 ∧ (0x05 : Byte) ≠ STUFF := by decide
theorem witness_ChecksumByteDelivers : (st (sc .cksum [0x10, 0x02, 0x02, 0x01, 0x20] 0 5)).scan.phase = .cksum := by decide
theorem witness_BodyAndChecksumRowsRunTheirBranch : (st (sc .body [0x10, 0x02, 0x02, 0x02, 0x20] 1 5)).scan.rem ≠ 0 := by
  decide

theorem witness_FrameReadyCarriesTheCandidate :
    ∃ t, exec (.scanb 0x35) (st (sc .cksum [0x10, 0x02, 0x02, 0x01, 0x20] 0 5)) = .next t ∧
      t.out.event = .frameReady e1 := ⟨_, rfl, by decide⟩

/-- One state for each phase of the invariant's table. -/
def seek0St : State := st (sc .seek0 [] 0 9)
def seek1St : State := st (sc .seek1 [0x10] 0 1)
def hdrStationSt : State := st (sc .hdrStation [0x10, 0x02] 0 2)
def hdrLenSt : State := st (sc .hdrLen [0x10, 0x02, 0x02] 0 3)
def bodyFnSt : State := st (sc .bodyFn [0x10, 0x02, 0x02, 0x01] 1 4)
def bodySt : State := st (sc .body [0x10, 0x02, 0x02, 0x02, 0x20] 1 5)
def bodyEscSt : State := st (sc .bodyEsc [0x10, 0x02, 0x02, 0x02, 0x20, 0x10] 1 6)
def cksumSt : State := st (sc .cksum [0x10, 0x02, 0x02, 0x02, 0x20, 0x10, 0x10] 0 7)
def cksumEmptySt : State := st (sc .cksum [0x10, 0x02, 0x02, 0x00] 0 4)

theorem witness_inv_seek0 : seek0St.Inv := ⟨⟨by decide, by decide, by decide, rfl⟩, nofun, by decide⟩
theorem witness_inv_seek1 : seek1St.Inv := ⟨⟨by decide, by decide, by decide, rfl⟩, nofun, by decide⟩
theorem witness_inv_hdrStation : hdrStationSt.Inv := ⟨⟨by decide, by decide, by decide, rfl⟩, nofun, by decide⟩
theorem witness_inv_hdrLen : hdrLenSt.Inv := ⟨⟨by decide, by decide, ⟨0x02, by decide⟩, rfl⟩, nofun, by decide⟩
theorem witness_inv_bodyFn : bodyFnSt.Inv := ⟨⟨by decide, by decide, ⟨0x02, by decide⟩, by decide⟩, nofun, by decide⟩
theorem witness_inv_body : bodySt.Inv :=
  ⟨⟨by decide, by decide, 0x02, 0x02, 0x20, [], [], by decide, rfl, by decide, by decide⟩, nofun, by decide⟩
theorem witness_inv_bodyEsc : bodyEscSt.Inv :=
  ⟨⟨by decide, by decide, 0x02, 0x02, 0x20, [], [], by decide, rfl, by decide, by decide⟩, nofun, by decide⟩
theorem witness_inv_cksum : cksumSt.Inv :=
  ⟨⟨by decide, by decide, rfl, .inr ⟨0x02, 0x02, 0x20, [0x10, 0x10], [0x10], by decide, by decide, by decide⟩⟩, nofun, by decide⟩
theorem witness_inv_cksumEmpty : cksumEmptySt.Inv := ⟨⟨by decide, by decide, rfl, .inl ⟨0x02, by decide⟩⟩, nofun, by decide⟩

theorem witness_ScanbFollowsTransitionTable :
    seek0St.Inv ∧ seek1St.Inv ∧ hdrStationSt.Inv ∧ hdrLenSt.Inv ∧ bodyFnSt.Inv ∧ bodySt.Inv ∧ bodyEscSt.Inv ∧ cksumSt.Inv :=
  ⟨witness_inv_seek0, witness_inv_seek1, witness_inv_hdrStation, witness_inv_hdrLen, witness_inv_bodyFn, witness_inv_body,
    witness_inv_bodyEsc, witness_inv_cksum⟩

/-! ## Premises met: chunks and streams -/

/-- A step that goes on, one that ends the chunk seeking, one that ends it holding a byte, and one that delivers. -/
theorem witness_FeedIsOneScanbPerStep :
    (bodySt.goOn (.feed 3 1 [0x10, 0x10])).running = some (.feed 3 1 [0x10, 0x10]) ∧
      scanOf (.scanb 0x10) bodySt.scan = some (bodyEscSt.scan, .none) ∧
      scanOf (.scanb 0x06) seek0St.scan = some (sc .seek0 [] 0 10, .none) ∧
      scanOf (.scanb 0x10) seek0St.scan = some (sc .seek1 [0x10] 0 10, .none) ∧
      scanOf (.scanb 0x56) cksumSt.scan = some (sc .seek0 [] 0 8, .frameReady e2) := by decide

theorem witness_ConsumedCountsAndIsNeverRead : (bodySt.goOn (.feed 3 1 [0x10, 0x10])).running ≠ none := by decide

/-- Each branch of `FEED` is taken: a frame, garbage, more data on an empty chunk and on an open candidate. -/
theorem witness_FeedStopsAtFirstFrame :
    feedOf (.feed [0x56]) cksumSt.scan = some (sc .seek0 [] 0 8, some ⟨.frameReady e2, 1⟩) ∧
      feedOf (.feed [0x06]) seek0St.scan = some (sc .seek0 [] 0 10, some ⟨.garbage 1, 1⟩) ∧
      feedOf (.feed []) seek0St.scan = some (seek0St.scan, some ⟨.needMoreData, 0⟩) ∧
      feedOf (.feed [0x10]) seek0St.scan = some (sc .seek1 [0x10] 0 10, some ⟨.needMoreData, 1⟩) := by decide

theorem witness_FeedOutcomesMeanWhatTheySay : cksumSt.Inv ∧ seek0St.Inv := ⟨witness_inv_cksum, witness_inv_seek0⟩

/-- A byte pending with two logical bytes to come, and with three. -/
def bodyEscSt2 : State := st (sc .bodyEsc [0x10, 0x02, 0x02, 0x03, 0x20, 0x10] 2 6)
def bodyEscSt3 : State := st (sc .bodyEsc [0x10, 0x02, 0x02, 0x04, 0x20, 0x10] 3 6)

theorem witness_inv_bodyEsc2 : bodyEscSt2.Inv :=
  ⟨⟨by decide, by decide, 0x02, 0x03, 0x20, [], [], by decide, rfl, by decide, by decide⟩, nofun, by decide⟩
theorem witness_inv_bodyEsc3 : bodyEscSt3.Inv :=
  ⟨⟨by decide, by decide, 0x02, 0x04, 0x20, [], [], by decide, rfl, by decide, by decide⟩, nofun, by decide⟩

/-- In `BODY_ESC` at `REM` = 1, where the pair ends the body, at 2, where `02` does, and above. -/
theorem witness_MarkerOpensCandidateWhenSeeking :
    (seek0St.Inv ∧ seek0St.scan.phase = .seek0) ∧ (seek1St.Inv ∧ seek1St.scan.phase = .seek1) ∧
      (bodySt.Inv ∧ bodySt.scan.phase = .body) ∧
      (bodyEscSt.Inv ∧ bodyEscSt.scan.phase = .bodyEsc ∧ bodyEscSt.scan.rem = 1) ∧
      (bodyEscSt2.Inv ∧ bodyEscSt2.scan.phase = .bodyEsc ∧ bodyEscSt2.scan.rem = 2) ∧
      (bodyEscSt3.Inv ∧ bodyEscSt3.scan.phase = .bodyEsc ∧ bodyEscSt3.scan.rem = 3) :=
  ⟨⟨witness_inv_seek0, rfl⟩, ⟨witness_inv_seek1, rfl⟩, ⟨witness_inv_body, rfl⟩, ⟨witness_inv_bodyEsc, rfl, rfl⟩,
    ⟨witness_inv_bodyEsc2, rfl, rfl⟩, ⟨witness_inv_bodyEsc3, rfl, rfl⟩⟩

/-- At `REM` = 1, where the pair ends the body, and above it. -/
theorem witness_StuffPairIsOneLogicalByte :
    (bodySt.scan.phase = .body ∧ bodySt.scan.rem = 1) ∧
      (st (sc .body [0x10, 0x02, 0x02, 0x03, 0x20] 2 5)).scan.phase = .body ∧
      (st (sc .body [0x10, 0x02, 0x02, 0x03, 0x20] 2 5)).scan.rem ≠ 0 := by decide

theorem witness_EncodedFrameIsDeliveredOnLastByte :
    seek0St.Inv ∧ seek0St.scan.phase = .seek0 ∧ seek1St.Inv ∧ seek1St.scan.phase = .seek1 ∧
      ∃ t, exec (.enc 0x02 0x20 [0x10]) State.reset = .next t ∧ t.out.enc = some (.frame e2) :=
  ⟨witness_inv_seek0, rfl, witness_inv_seek1, rfl, _, rfl, by decide⟩

/-- The noise of program P1, with a marker-valued byte at its end. -/
theorem witness_NoiseBeforeFrameIsTolerated :
    ¬ [MARK0, MARK1] <:+: [0x06, 0x10, 0x05, 0x10] ∧
      ∃ t, exec (.enc 0x02 0x20 [0x10]) State.reset = .next t ∧ t.out.enc = some (.frame e2) :=
  ⟨by decide, _, rfl, by decide⟩

/-- A whole candidate, the one with LENGTH 0, and one closed by a stuffing violation. -/
theorem witness_DeliveredCandidateIsDecodable :
    (cksumSt.Inv ∧ ∃ t, exec (.scanb 0x56) cksumSt = .next t ∧ t.out.event = .frameReady e2) ∧
      (cksumEmptySt.Inv ∧
        ∃ t, exec (.scanb 0x14) cksumEmptySt = .next t ∧ t.out.event = .frameReady [0x10, 0x02, 0x02, 0x00, 0x14]) ∧
      (bodyEscSt.Inv ∧
        ∃ t, exec (.scanb 0x05) bodyEscSt = .next t ∧ t.out.event = .frameReady [0x10, 0x02, 0x02, 0x02, 0x20, 0x10, 0x05]) :=
  ⟨⟨witness_inv_cksum, _, rfl, by decide⟩, ⟨witness_inv_cksumEmpty, _, rfl, by decide⟩, ⟨witness_inv_bodyEsc, _, rfl, by decide⟩⟩

/-- At the bound itself: three bytes with `REM` = 1, one byte in `CKSUM`, 512 from `HDR_STATION`. -/
theorem witness_CandidateCompletesWithinBound :
    (bodySt.Inv ∧ bodySt.scan.phase = .body ∧ 2 * bodySt.scan.rem.toNat + 1 ≤ ([0x10, 0x10, 0x00] : List Byte).length) ∧
      (cksumSt.Inv ∧ cksumSt.scan.phase = .cksum ∧ 2 * cksumSt.scan.rem.toNat + 1 ≤ ([0x00] : List Byte).length) ∧
      (hdrStationSt.Inv ∧ hdrStationSt.scan.phase = .hdrStation ∧ 512 ≤ (List.replicate 512 (0x10 : Byte)).length) :=
  ⟨⟨witness_inv_body, rfl, by decide⟩, ⟨witness_inv_cksum, rfl, by decide⟩, ⟨witness_inv_hdrStation, rfl, by rw [List.length_replicate]⟩⟩

theorem witness_PartialCandidateIsContinued :
    bodySt.Inv ∧ bodySt.scan.phase ≠ .seek0 ∧ bodySt.scan.phase ≠ .seek1 ∧
      ∃ u, scanStream [0x10, 0x02] bodySt = some (u, [[0x10, 0x02, 0x02, 0x02, 0x20, 0x10, 0x02]]) :=
  ⟨witness_inv_body, by decide, by decide, _, rfl⟩

/-! ## Premises met: stepping and coding -/

/-- A machine with an operation issued. -/
def issuedSt : State := { bodySt with queue := [⟨.op, [0b10, 0x55]⟩] }

theorem witness_inv_issued : issuedSt.Inv := ⟨witness_inv_body.scan, nofun, by decide⟩

/-- A machine in the middle of a `FEED`, with an operation issued after it. -/
def feedingSt : State := issuedSt.goOn (.feed 3 1 [0x10, 0x10])

theorem witness_inv_feeding : feedingSt.Inv :=
  ⟨witness_inv_body.scan, fun r h => by cases h; exact ⟨by decide, by decide⟩, by decide⟩

/-- With an operation to take, and with a `FEED` to go on with. -/
theorem witness_StepKeepsInvariant :
    (issuedSt.Inv ∧ ∃ t, step issuedSt = .next t ∧ t.scan.phase = .cksum) ∧
      (feedingSt.Inv ∧ ∃ t, step feedingSt = .next t ∧ t.scan.phase = .bodyEsc ∧ t.running = some (.feed 3 2 [0x10])) :=
  ⟨⟨witness_inv_issued, _, rfl, by decide⟩, ⟨witness_inv_feeding, _, rfl, by decide, by decide⟩⟩

theorem witness_InvariantRunsNeverStop : issuedSt.Inv ∧ feedingSt.Inv := ⟨witness_inv_issued, witness_inv_feeding⟩

theorem witness_BufferNeverOverflows :
    (seek0St.Inv ∧ seek0St.scan.phase = .seek0) ∧ (seek1St.Inv ∧ seek1St.scan.phase = .seek1) ∧
      (hdrStationSt.Inv ∧ hdrStationSt.scan.phase = .hdrStation) ∧ (hdrLenSt.Inv ∧ hdrLenSt.scan.phase = .hdrLen) ∧
      (bodyFnSt.Inv ∧ bodyFnSt.scan.phase = .bodyFn) ∧
      (bodySt.Inv ∧ bodySt.scan.phase = .body) ∧ (bodyEscSt.Inv ∧ bodyEscSt.scan.phase = .bodyEsc) ∧
      (cksumSt.Inv ∧ cksumSt.scan.phase = .cksum ∧ byteAt cksumSt.scan.bytes 3 ≠ 0) ∧
      (cksumEmptySt.Inv ∧ cksumEmptySt.scan.phase = .cksum) :=
  ⟨⟨witness_inv_seek0, rfl⟩, ⟨witness_inv_seek1, rfl⟩, ⟨witness_inv_hdrStation, rfl⟩, ⟨witness_inv_hdrLen, rfl⟩,
    ⟨witness_inv_bodyFn, rfl⟩, ⟨witness_inv_body, rfl⟩, ⟨witness_inv_bodyEsc, rfl⟩, ⟨witness_inv_cksum, rfl, by decide⟩, ⟨witness_inv_cksumEmpty, rfl⟩⟩

theorem witness_DecodeInvertsEncode :
    (Instr.frame 0x02 0x02 0x20 [0x10, 0x10] 0x56).wellFormed = true ∧
      (Instr.ok ⟨0, 0, List.replicate 254 0, 0⟩).wellFormed = true ∧
      (Instr.frameReady (List.replicate 514 0) 1).wellFormed = true ∧ (Instr.scanbBodyOther 0x02).wellFormed = true :=
  ⟨by decide, by simp only [Instr.wellFormed, List.length_replicate]; decide,
    by simp only [Instr.wellFormed, List.length_replicate]; decide, by decide⟩

theorem witness_EncodeInvertsDecode : decode ⟨.op, [0b10, 0x99]⟩ = .ok (.scanb 0x99) := rfl

theorem witness_DispatchWordsNameOneRow :
    (Instr.scanbBodyOther 0x02).wellFormed = true ∧
      encode (.scanbBodyOther 0x02) = ⟨.scanDispatch, [Phase.body.code.setWidth 8, 0x02]⟩ := by decide

theorem witness_StepRunsDecodedInstruction :
    issuedSt.running = none ∧ issuedSt.queue = ⟨.op, [0b10, 0x55]⟩ :: [] ∧ decode ⟨.op, [0b10, 0x55]⟩ = .ok (.scanb 0x55) :=
  ⟨rfl, rfl, rfl⟩

theorem witness_StepIdlesOrStopsByName :
    State.reset.running = none ∧ State.reset.queue = [] ∧ (State.reset.placePacket ⟨.op, [4]⟩).running = none ∧
      (State.reset.placePacket ⟨.op, [4]⟩).queue = ⟨.op, [4]⟩ :: [] ∧ decode ⟨.op, [4]⟩ = .error (.unknownCode 4) :=
  ⟨rfl, rfl, rfl, rfl, rfl⟩

theorem witness_InstancesShareNothing :
    [State.reset, issuedSt][1]? = [bodySt, issuedSt][1]? ∧
      ∃ tt, stepInstance 1 [State.reset, issuedSt] = .next tt ∧ tt[0]? = some State.reset :=
  ⟨by decide, _, rfl, by decide⟩

end Sys2Proof.Tests
end

section

/-! The laws of the checksum function (40_encode.md R90). -/

namespace Sys2Proof.Machine

/-- The byte-by-byte definition agrees with the library's sum over `BitVec 8`, whose laws it then takes over. -/
theorem sum8_eq_sum (s : List Byte) : sum8 s = s.sum := List.sum_eq_foldl.symm

@[simp] theorem sum8_nil : sum8 [] = 0 := rfl

@[simp] theorem sum8_singleton (b : Byte) : sum8 [b] = b := by
  rw [sum8_eq_sum, List.sum_singleton]

@[simp] theorem sum8_append (s t : List Byte) : sum8 (s ++ t) = add8 (sum8 s) (sum8 t) := by
  simp only [sum8_eq_sum, List.sum_append, add8]

theorem sum8_cons (b : Byte) (s : List Byte) : sum8 (b :: s) = add8 b (sum8 s) := by
  simp only [sum8_eq_sum, List.sum_cons, add8]

theorem sum8_concat (s : List Byte) (b : Byte) : sum8 (s ++ [b]) = add8 (sum8 s) b := by
  rw [sum8_append, sum8_singleton]

theorem toNat_sum8 (s : List Byte) : (sum8 s).toNat = (s.map BitVec.toNat).sum % 256 := by
  induction s with
  | nil => rfl
  | cons b s ih =>
    calc (sum8 (b :: s)).toNat
        = (b.toNat + (sum8 s).toNat) % 256 := by rw [sum8_cons, BitVec.toNat_add]
      _ = (b.toNat + (s.map BitVec.toNat).sum) % 256 := by rw [ih, Nat.add_mod_mod]
      _ = ((b :: s).map BitVec.toNat).sum % 256 := by rw [List.map_cons, List.sum_cons]

theorem sum8_eq_of_perm {s t : List Byte} (h : s.Perm t) : sum8 s = sum8 t := by
  rw [sum8_eq_sum, sum8_eq_sum, h.sum_eq]

/-- Settles O2: `sum8` is the library's sum of bytes, so it takes over that sum's laws; the value modulo 256 is by induction on
the sequence. -/
theorem sum8IsModularSum : Obligations.Sum8IsModularSum :=
  ⟨sum8_nil, sum8_concat, toNat_sum8, sum8_append, fun _ _ => sum8_eq_of_perm, by decide, by decide⟩

end Sys2Proof.Machine

end

section

/-! The laws of the decoder (41_decode.md R114): its fields as the list's own accessors, and one equation per check. -/

namespace Sys2Proof.Machine

open Sys2Proof.Config

theorem byteAt_of_getElem? {raw : List Byte} {i : Nat} {b : Byte} (h : raw[i]? = some b) : byteAt raw i = b := by
  rw [byteAt, List.getD_eq_getElem?_getD, h, Option.getD_some]

theorem getLast?_eq_checksumField {raw : List Byte} (h : raw ≠ []) : raw.getLast? = some (checksumField raw) := by
  rw [checksumField, List.getLastD_eq_getLast?, List.getLast?_eq_some_getLast h, Option.getD_some]

/-- The marker check, read on the first two bytes. -/
theorem take_two_eq_marker_iff {raw : List Byte} (h : 2 ≤ raw.length) :
    raw.take 2 = [MARK0, MARK1] ↔ byteAt raw 0 = MARK0 ∧ byteAt raw 1 = MARK1 := by
  match raw, h with
  | a :: b :: rest, _ => simp [byteAt]

/-- The checksum check, read on the last byte. -/
theorem getLast?_eq_sum8_iff {raw : List Byte} (h : 5 ≤ raw.length) :
    raw.getLast? = some (sum8 raw.dropLast) ↔ sum8 raw.dropLast = checksumField raw := by
  have hne : raw ≠ [] := List.ne_nil_of_length_pos (by omega)
  rw [getLast?_eq_checksumField hne, Option.some.injEq, eq_comm]

/-- `DEC` returns the decoder's result and writes nothing else. -/
theorem exec_dec (raw : List Byte) (e : Byte) (s : State) :
    exec (.dec raw e) s = .next (s.returnDec (decodeFrame raw e)) := by
  change execDec raw e s = _
  rw [execDec]
  cases decodeFrame raw e <;> rfl

section

variable {raw : List Byte} {e : Byte}

/-- R115. -/
theorem decodeFrame_of_length_lt (h : raw.length < 5) : decodeFrame raw e = .error .malformedFrame := if_pos h

/-- R116. -/
theorem decodeFrame_of_checksum_ne (h : 5 ≤ raw.length) (hc : raw.getLast? ≠ some (sum8 raw.dropLast)) :
    decodeFrame raw e = .error .checksumMismatch := by
  rw [decodeFrame, if_neg (Nat.not_lt.mpr h), if_pos (mt (getLast?_eq_sum8_iff h).mpr hc)]

variable (h : 5 ≤ raw.length) (hc : raw.getLast? = some (sum8 raw.dropLast))
include h hc

/-- R117. -/
theorem decodeFrame_of_marker_ne (hm : raw.take 2 ≠ [MARK0, MARK1]) : decodeFrame raw e = .error .malformedFrame := by
  have hm' : byteAt raw 0 ≠ MARK0 ∨ byteAt raw 1 ≠ MARK1 :=
    not_and_or.mp (mt (take_two_eq_marker_iff (by omega)).mpr hm)
  rw [decodeFrame, if_neg (Nat.not_lt.mpr h), if_neg (not_not.mpr ((getLast?_eq_sum8_iff h).mp hc)), if_pos hm']

/-- R118: a buffer of five bytes fails the marker check or the one after it, with the same error. -/
theorem decodeFrame_of_length_eq_five (hn : raw.length = 5) : decodeFrame raw e = .error .malformedFrame := by
  have hmin : raw.length < MIN_FRAME := by rw [hn]; decide
  rw [decodeFrame, if_neg (Nat.not_lt.mpr h), if_neg (not_not.mpr ((getLast?_eq_sum8_iff h).mp hc)), if_pos hmin, ite_self]

/-- R119: the two checks before this one raise the same error. -/
theorem decodeFrame_of_unstuff_eq_none (hu : unstuff (regionField raw) = none) :
    decodeFrame raw e = .error .malformedFrame := by
  rw [decodeFrame, if_neg (Nat.not_lt.mpr h), if_neg (not_not.mpr ((getLast?_eq_sum8_iff h).mp hc)), hu]
  simp only [ite_self]

end

/-- R120 to R122: on a buffer whose region de-stuffs, LENGTH is checked before FUNCTION. -/
theorem decodeFrame_of_unstuff_eq_some {raw payload : List Byte} {e : Byte} (h : 6 ≤ raw.length)
    (hc : raw.getLast? = some (sum8 raw.dropLast)) (hm : raw.take 2 = [MARK0, MARK1])
    (hu : unstuff (regionField raw) = some payload) {station length function : Byte}
    (hs : raw[2]? = some station) (hl : raw[3]? = some length) (hf : raw[4]? = some function) :
    decodeFrame raw e =
      if length.toNat ≠ 1 + payload.length then .error .malformedFrame
      else if function ≠ e then .error .unexpectedFunctionCode
      else .ok ⟨station, function, payload, sum8 raw.dropLast⟩ := by
  obtain ⟨hm0, hm1⟩ := (take_two_eq_marker_iff (by omega)).mp hm
  have h5 : ¬ raw.length < 5 := by omega
  have hmin : ¬ raw.length < MIN_FRAME := Nat.not_lt.mpr h
  have hsum := (getLast?_eq_sum8_iff (Nat.le_of_succ_le h)).mp hc
  simp only [decodeFrame, if_neg h5, if_neg hmin, hsum, hm0, hm1, hu, byteAt_of_getElem? hs, byteAt_of_getElem? hl,
    byteAt_of_getElem? hf, ne_eq, not_true_eq_false, or_self, if_false]

/-- Settles O7: the result is `decodeFrame`'s, and each clause is its equation for one check. -/
theorem decReportsFirstFailingCheck : Obligations.DecReportsFirstFailingCheck := by
  intro raw e s
  refine ⟨decodeFrame raw e, exec_dec raw e s, decodeFrame_of_length_lt, decodeFrame_of_checksum_ne, fun h5 hc =>
    ⟨decodeFrame_of_marker_ne h5 hc, decodeFrame_of_length_eq_five h5 hc, fun hm h6 =>
      ⟨decodeFrame_of_unstuff_eq_none h5 hc, fun payload hu station length function hs hl hf => ?_⟩⟩⟩
  rw [decodeFrame_of_unstuff_eq_some h6 hc hm hu hs hl hf]
  refine ⟨fun hlen => if_pos hlen, fun hlen hfn => ?_, fun hlen hfn => ?_⟩
  · rw [if_neg (not_not.mpr hlen), if_pos hfn]
  · rw [if_neg (not_not.mpr hlen), if_neg (not_not.mpr hfn)]

end Sys2Proof.Machine

end

section

/-! The scanner's seeking, station and checksum phases (42_scanner.md R131, R133, R138): one equation per branch of `scanStep`, and
what the two endings of a branch write to the machine. -/

namespace Sys2Proof.Machine

open Sys2Proof.Config

section

variable {c : ScanState} {b : Byte}

theorem setPhase_of_phase_eq {p : Phase} (h : c.phase = p) : c.setPhase p = c := by
  subst h
  rfl

/-- R131, first line. -/
theorem scanStep_seek0_mark0 (h : c.phase = .seek0) :
    scanStep MARK0 c = quiet ((c.count.bufAppend MARK0).setPhase .seek1) := by
  rw [scanStep, h]
  exact if_pos rfl

/-- R131, second line: the row's write of `PHASE` changes nothing, so the step only counts. -/
theorem scanStep_seek0_of_ne_mark0 (h : c.phase = .seek0) (hb : b ≠ MARK0) : scanStep b c = quiet c.count := by
  have hrow : rowSeek0Other c = quiet c.count := congrArg quiet (setPhase_of_phase_eq h)
  rw [scanStep, h, ← hrow]
  exact if_neg hb

/-- R133. -/
theorem scanStep_hdrStation (h : c.phase = .hdrStation) :
    scanStep b c = quiet ((c.count.bufAppend b).setPhase .hdrLen) := by
  rw [scanStep, h]
  rfl

/-- R138. -/
theorem scanStep_cksum (h : c.phase = .cksum) : scanStep b c = deliver (c.count.bufAppend b) := by
  rw [scanStep, h]
  rfl

end

/-- A branch that emits nothing leaves its registers and the event `NONE`. -/
theorem exec_scanb_of_quiet {s : State} {b : Byte} {c : ScanState} (h : scanStep b s.scan = quiet c) :
    exec (.scanb b) s = .next (s.scanned c .none) := by
  rw [exec_scanb, h]
  rfl

/-- A branch that delivers leaves a seeking scanner with an empty buffer; only `CONSUMED` outlives the candidate (R139). -/
theorem exec_scanb_of_deliver {s : State} {b : Byte} {c : ScanState} (h : scanStep b s.scan = deliver c) :
    exec (.scanb b) s = .next (s.scanned
      { phase := .seek0, buf := [], blen := 0, rem := 0, consumed := c.consumed } (.frameReady c.bytes)) := by
  rw [exec_scanb, h]
  rfl

/-- Settles O18: both lines of R131 are quiet, and a byte that is not `MARK0` is only counted. -/
theorem seekingHoldsFirstMarkerByte : Obligations.SeekingHoldsFirstMarkerByte := fun _ h =>
  ⟨exec_scanb_of_quiet (scanStep_seek0_mark0 h), fun _ hb => exec_scanb_of_quiet (scanStep_seek0_of_ne_mark0 h hb)⟩

/-- Settles O20: `HDR_STATION` has one quiet branch, whatever the byte. -/
theorem stationIsStored : Obligations.StationIsStored := fun _ _ h => exec_scanb_of_quiet (scanStep_hdrStation h)

/-- Settles O25: `CKSUM` has one branch, which delivers the held bytes with this one appended. -/
theorem checksumByteDelivers : Obligations.ChecksumByteDelivers := by
  intro s b h
  have hframe : (s.scan.count.bufAppend b).bytes = s.scan.bytes ++ [b] := by rw [bytes_bufAppend, count_bytes]
  rw [← hframe]
  exact exec_scanb_of_deliver (scanStep_cksum h)

end Sys2Proof.Machine

end

section

/-! Packets and instructions (30_encoding.md sections 1 and 4, 10_state.md R21): `decode` and `encode` are inverse, said once for
each code space, and the dispatch word of a phase and byte. -/

namespace Sys2Proof.Machine

open Sys2Proof.Config

/-- Settles O51: the row's own round trip, for each row of the table. -/
theorem decodeInvertsEncode : Obligations.DecodeInvertsEncode
  | .frame .. => Laws.RoundTrip.frame _ _ _ _ _
  | .mark => Laws.RoundTrip.mark
  | .stuffPair => Laws.RoundTrip.stuffPair
  | .enc .. => Laws.RoundTrip.enc _ _ _
  | .dec .. => Laws.RoundTrip.dec _ _
  | .scanb _ => Laws.RoundTrip.scanb _
  | .scanr => Laws.RoundTrip.scanr
  | .feed _ => Laws.RoundTrip.feed _
  | .roundtrip .. => Laws.RoundTrip.roundtrip _ _ _
  | .scanbSeek0Mark0 => Laws.RoundTrip.scanbSeek0Mark0
  | .scanbSeek0Other _ => Laws.RoundTrip.scanbSeek0Other _
  | .scanbSeek1Mark1 => Laws.RoundTrip.scanbSeek1Mark1
  | .scanbSeek1Mark0 => Laws.RoundTrip.scanbSeek1Mark0
  | .scanbSeek1Other _ => Laws.RoundTrip.scanbSeek1Other _
  | .scanbHdrStationAny _ => Laws.RoundTrip.scanbHdrStationAny _
  | .scanbHdrLenZero => Laws.RoundTrip.scanbHdrLenZero
  | .scanbHdrLenNonzero _ => Laws.RoundTrip.scanbHdrLenNonzero _
  | .scanbBodyFnAny _ => Laws.RoundTrip.scanbBodyFnAny _
  | .scanbBodyMark0 => Laws.RoundTrip.scanbBodyMark0
  | .scanbBodyOther _ => Laws.RoundTrip.scanbBodyOther _
  | .scanbBodyEscMark0 => Laws.RoundTrip.scanbBodyEscMark0
  | .scanbBodyEscOther _ => Laws.RoundTrip.scanbBodyEscOther _
  | .scanbCksumAny _ => Laws.RoundTrip.scanbCksumAny _
  | .ok _ => Laws.RoundTrip.ok _
  | .malformedFrame => Laws.RoundTrip.malformedFrame
  | .checksumMismatch => Laws.RoundTrip.checksumMismatch
  | .unexpectedFunctionCode => Laws.RoundTrip.unexpectedFunctionCode
  | .needMoreData _ => Laws.RoundTrip.needMoreData _
  | .frameReady .. => Laws.RoundTrip.frameReady _ _
  | .garbage _ => Laws.RoundTrip.garbage _
  | .phaseSeek0 => Laws.RoundTrip.phaseSeek0
  | .phaseSeek1 => Laws.RoundTrip.phaseSeek1
  | .phaseHdrStation => Laws.RoundTrip.phaseHdrStation
  | .phaseHdrLen => Laws.RoundTrip.phaseHdrLen
  | .phaseBodyFn => Laws.RoundTrip.phaseBodyFn
  | .phaseBody => Laws.RoundTrip.phaseBody
  | .phaseBodyEsc => Laws.RoundTrip.phaseBodyEsc
  | .phaseCksum => Laws.RoundTrip.phaseCksum

theorem dropLast_append_getLastD {bs : List Byte} (h : bs ≠ []) : bs.dropLast ++ [bs.getLastD 0#8] = bs := by
  rw [List.getLastD_eq_getLast?, List.getLast?_eq_some_getLast h, Option.getD_some, List.dropLast_append_getLast]

/-- In each branch that accepts, the bytes tested are those that `encode` writes. -/
theorem encode_of_decodeWire {bs : List Byte} {i : Instr} (h : decodeWire bs = .ok i) : encode i = ⟨.wire, bs⟩ := by
  unfold decodeWire at h
  split at h
  · cases h
  · cases h
  · split_ifs at h with hm hs <;> cases h
    · rw [hm.1, hm.2]; rfl
    · rw [hs.1, hs.2]; rfl
  · next r rs =>
    split_ifs at h with hm
    cases h
    have hregion := dropLast_append_getLastD (List.cons_ne_nil r rs)
    rw [hm.1, hm.2, encode, frameBytes, frameHead, List.append_assoc, hregion]
    rfl
  · cases h

/-- As for the wire units: each code tested is the one `encode` writes. -/
theorem encode_of_decodeOp {bs : List Byte} {i : Instr} (h : decodeOp bs = .ok i) : encode i = ⟨.op, bs⟩ := by
  unfold decodeOp at h
  split at h
  · cases h
  · split_ifs at h <;> grind [encode]

theorem encode_of_decodePseudo {bs : List Byte} {i : Instr} (h : decodePseudo bs = .ok i) :
    encode i = ⟨.pseudo, bs⟩ := by
  unfold decodePseudo at h
  split at h
  · cases h
  · split_ifs at h <;> grind [encode]

theorem encode_of_decodeDispatch {phase b : Byte} {i : Instr} (h : decodeDispatch phase b = .ok i) :
    encode i = ⟨.scanDispatch, [phase, b]⟩ := by
  unfold decodeDispatch at h
  split_ifs at h <;> cases h <;> simp_all [encode]

theorem encode_of_decodeStatus {bs : List Byte} {i : Instr} (h : decodeStatus bs = .ok i) :
    encode i = ⟨.decStatus, bs⟩ := by
  unfold decodeStatus at h
  split at h
  · cases h
  · split_ifs at h <;> grind [encode]

/-- Two bytes hold every length that a packet of fewer than 65536 bytes can state. -/
theorem ofNat_bytes_of_toNat (lo hi : Byte) :
    BitVec.ofNat 8 (lo.toNat + 256 * hi.toNat) = lo ∧ BitVec.ofNat 8 ((lo.toNat + 256 * hi.toNat) / 256) = hi := by
  constructor <;> bv_omega

theorem encode_of_decodeOutcome {bs : List Byte} {i : Instr} (h : decodeOutcome bs = .ok i) :
    encode i = ⟨.feedOutcome, bs⟩ := by
  unfold decodeOutcome at h
  split at h
  · cases h
  · next code args =>
    split_ifs at h with h0 hz h1 h2 hz
    · cases h
      rw [encode, ← hz, h0]
      rfl
    · split at h
      · next lo hi rest =>
        dsimp only at h
        split_ifs at h with hf
        cases h
        obtain ⟨hlen, hzero⟩ := hf
        obtain ⟨hlo, hhi⟩ := ofNat_bytes_of_toNat lo hi
        rw [encode, List.length_take_of_le hlen, hlo, hhi, ← hzero, List.take_append_drop, h1]
        rfl
      · cases h
    · cases h
      rw [encode, ← hz, h2]
      rfl

theorem encode_of_decodePhase {bs : List Byte} {i : Instr} (h : decodePhase bs = .ok i) :
    encode i = ⟨.phaseCode, bs⟩ := by
  unfold decodePhase at h
  split at h
  · cases h
  · split_ifs at h <;> cases h <;> simp_all [encode]
  · cases h

/-- Settles O52: the packet's code space names the decoder, and each of them loses nothing. -/
theorem encodeInvertsDecode : Obligations.EncodeInvertsDecode := by
  rintro ⟨format, bytes⟩ i h
  cases format with
  | wire => exact encode_of_decodeWire h
  | op => exact encode_of_decodeOp h
  | pseudo => exact encode_of_decodePseudo h
  | scanDispatch =>
    unfold decode at h
    dsimp only at h
    split at h
    · exact encode_of_decodeDispatch h
    · cases h
  | decStatus => exact encode_of_decodeStatus h
  | feedOutcome => exact encode_of_decodeOutcome h
  | phaseCode => exact encode_of_decodePhase h

/-- The dispatch word `{PHASE, b}` as a packet (30_encoding.md R76). -/
def dispatchWord (p : Phase) (b : Byte) : Packet := ⟨.scanDispatch, [p.code.setWidth 8, b]⟩

theorem exec_scanb_eq_row {s : State} {b : Byte} {i : Instr} {row : ScanState → ScanState × Event}
    (hi : exec i s = .next (s.afterScan (row s.scan))) (h : scanStep b s.scan = row s.scan) :
    exec (.scanb b) s = exec i s := by
  rw [exec_scanb, h, hi]

/-- R76: each phase and byte have a well-formed row with their dispatch word, and `SCANB` runs that row. -/
theorem exists_dispatchRow (p : Phase) (b : Byte) : ∃ i : Instr,
    i.wellFormed = true ∧ encode i = dispatchWord p b ∧
      ∀ s : State, s.scan.phase = p → exec (.scanb b) s = exec i s := by
  cases p with
  | seek0 =>
    by_cases h0 : b = MARK0
    · exact ⟨.scanbSeek0Mark0, rfl, by rw [h0]; rfl, fun s h =>
        exec_scanb_eq_row (row := rowSeek0Mark0) rfl (by simp [scanStep, h, h0])⟩
    · exact ⟨.scanbSeek0Other b, by simp [Instr.wellFormed, h0], rfl, fun s h =>
        exec_scanb_eq_row (row := rowSeek0Other) rfl (by simp [scanStep, h, h0])⟩
  | seek1 =>
    by_cases h1 : b = MARK1
    · exact ⟨.scanbSeek1Mark1, rfl, by rw [h1]; rfl, fun s h =>
        exec_scanb_eq_row (row := rowSeek1Mark1) rfl (by simp [scanStep, h, h1])⟩
    by_cases h0 : b = MARK0
    · exact ⟨.scanbSeek1Mark0, rfl, by rw [h0]; rfl, fun s h =>
        exec_scanb_eq_row (row := rowSeek1Mark0) rfl (by simp only [scanStep, h]; rw [if_neg h1, if_pos h0])⟩
    · exact ⟨.scanbSeek1Other b, by simp [Instr.wellFormed, h0, h1], rfl, fun s h =>
        exec_scanb_eq_row (row := rowSeek1Other) rfl (by simp [scanStep, h, h0, h1])⟩
  | hdrStation =>
    exact ⟨.scanbHdrStationAny b, rfl, rfl, fun s h =>
      exec_scanb_eq_row (row := rowHdrStation b) rfl (by simp [scanStep, h])⟩
  | hdrLen =>
    by_cases hz : b = 0#8
    · exact ⟨.scanbHdrLenZero, rfl, by rw [hz]; rfl, fun s h =>
        exec_scanb_eq_row (row := rowHdrLenZero) rfl (by simp [scanStep, h, hz])⟩
    · exact ⟨.scanbHdrLenNonzero b, by simp [Instr.wellFormed, hz], rfl, fun s h =>
        exec_scanb_eq_row (row := rowHdrLenNonzero b) rfl (by simp [scanStep, h, hz])⟩
  | bodyFn =>
    exact ⟨.scanbBodyFnAny b, rfl, rfl, fun s h =>
      exec_scanb_eq_row (row := rowBodyFn b) rfl (by simp [scanStep, h])⟩
  | body =>
    by_cases hs : b = STUFF
    · exact ⟨.scanbBodyMark0, rfl, by rw [hs]; rfl, fun s h =>
        exec_scanb_eq_row (row := rowBodyMark0) rfl (by simp [scanStep, h, hs])⟩
    · exact ⟨.scanbBodyOther b, by simp [Instr.wellFormed, hs], rfl, fun s h =>
        exec_scanb_eq_row (row := rowBodyOther b) rfl (by simp [scanStep, h, hs])⟩
  | bodyEsc =>
    by_cases hs : b = STUFF
    · exact ⟨.scanbBodyEscMark0, rfl, by rw [hs]; rfl, fun s h =>
        exec_scanb_eq_row (row := rowBodyEscMark0) rfl (by simp [scanStep, h, hs])⟩
    · exact ⟨.scanbBodyEscOther b, by simp [Instr.wellFormed, hs], rfl, fun s h =>
        exec_scanb_eq_row (row := rowBodyEscOther b) rfl (by simp [scanStep, h, hs])⟩
  | cksum =>
    exact ⟨.scanbCksumAny b, rfl, rfl, fun s h =>
      exec_scanb_eq_row (row := rowCksum b) rfl (by simp [scanStep, h])⟩

/-- Settles O28: the row of the dispatch word is the one that `SCANB` runs, and it decodes from its own packet. -/
theorem scanbIsItsDispatchRow : Obligations.ScanbIsItsDispatchRow := by
  intro s b
  obtain ⟨i, hwf, hword, hrun⟩ := exists_dispatchRow s.scan.phase b
  exact ⟨i, (congrArg decode hword).symm.trans (decodeInvertsEncode i hwf), hwf, hrun s rfl⟩

/-- Settles O53: two well-formed rows with one packet are what that packet decodes to. -/
theorem dispatchWordsNameOneRow : Obligations.DispatchWordsNameOneRow := by
  intro p b
  obtain ⟨i, hwf, hword, -⟩ := exists_dispatchRow p b
  refine ⟨i, ⟨hwf, hword⟩, fun j hj hjword => ?_⟩
  have hdecode : Except.ok j = Except.ok (ε := Reject) i := by
    rw [← decodeInvertsEncode j hj, ← decodeInvertsEncode i hwf, hjword, hword, dispatchWord]
  exact Except.ok.inj hdecode

/-- Settles O54: each word runs through its space's decoder. -/
theorem knownWordsDecode : Obligations.KnownWordsDecode := ⟨rfl, rfl, rfl, rfl, rfl, rfl, rfl, rfl, rfl, rfl, rfl⟩

end Sys2Proof.Machine

end

section

/-! The laws of `stuff` and `unstuff` (40_encode.md R91, R92, 41_decode.md R110, R111): `unstuff` reads whole pairs and single bytes
from the left, so it goes through a concatenation whose first part it accepts. -/

namespace Sys2Proof.Machine

open Sys2Proof.Config

@[simp] theorem stuff_nil : stuff [] = [] := rfl

@[simp] theorem stuff_cons_stuff (p : List Byte) : stuff (STUFF :: p) = STUFF :: STUFF :: stuff p := if_pos rfl

theorem stuff_cons_of_ne {b : Byte} (h : b ≠ STUFF) (p : List Byte) : stuff (b :: p) = b :: stuff p := if_neg h

@[simp] theorem unstuff_nil : unstuff [] = some [] := rfl

@[simp] theorem unstuff_singleton_stuff : unstuff [STUFF] = none := rfl

@[simp] theorem unstuff_pair (r : List Byte) : unstuff (STUFF :: STUFF :: r) = (unstuff r).map (STUFF :: ·) := by
  rw [unstuff, if_pos rfl, if_pos rfl]

theorem unstuff_stuff_cons_of_ne {c : Byte} (h : c ≠ STUFF) (r : List Byte) : unstuff (STUFF :: c :: r) = none := by
  rw [unstuff, if_pos rfl, if_neg h]

theorem unstuff_cons_of_ne {b : Byte} (h : b ≠ STUFF) (r : List Byte) :
    unstuff (b :: r) = (unstuff r).map (b :: ·) := by
  cases r with
  | nil => exact if_neg h
  | cons c r => rw [unstuff, if_neg h]

/-- Physical length (R92 (a)). -/
theorem length_stuff (p : List Byte) : (stuff p).length = p.length + p.count STUFF := by
  induction p with
  | nil => rfl
  | cons b p ih =>
    by_cases h : b = STUFF
    · subst h; simp [ih]; omega
    · simp [stuff_cons_of_ne h, ih, h]; omega

theorem length_stuff_le (p : List Byte) : (stuff p).length ≤ 2 * p.length := by
  have := p.count_le_length (a := STUFF)
  rw [length_stuff]
  omega

/-- R92 (b). -/
theorem stuff_append (p q : List Byte) : stuff (p ++ q) = stuff p ++ stuff q := by
  induction p with
  | nil => rfl
  | cons b p ih =>
    by_cases h : b = STUFF
    · subst h; simp [ih]
    · simp [stuff_cons_of_ne h, ih]

/-- R92 (f): each doubled byte adds its own value once more. -/
theorem sum8_stuff (p : List Byte) : sum8 (stuff p) = add8 (sum8 p) (BitVec.ofNat 8 (16 * p.count STUFF)) := by
  induction p with
  | nil => rfl
  | cons b p ih =>
    by_cases h : b = STUFF
    · subst h
      have hval : STUFF = 16#8 := rfl
      rw [stuff_cons_stuff, sum8_cons, sum8_cons, sum8_cons, ih, List.count_cons_self, hval]
      simp only [add8]
      bv_omega
    · rw [stuff_cons_of_ne h, sum8_cons, sum8_cons, ih, List.count_cons_of_ne h]
      exact (BitVec.add_assoc ..).symm

/-- R111: `unstuff` inverts `stuff`. -/
@[simp] theorem unstuff_stuff (p : List Byte) : unstuff (stuff p) = some p := by
  induction p with
  | nil => rfl
  | cons b p ih =>
    by_cases h : b = STUFF
    · subst h; simp [ih]
    · simp [stuff_cons_of_ne h, unstuff_cons_of_ne h, ih]

/-- R111: nothing but the stuffed image of a payload de-stuffs to it. -/
theorem eq_stuff_of_unstuff {r p : List Byte} (h : unstuff r = some p) : r = stuff p := by
  induction r using unstuff.induct generalizing p with
  | case1 => cases h; rfl
  | case2 => simp at h
  | case3 b hb =>
    rw [unstuff_cons_of_ne hb] at h
    cases h
    rw [stuff_cons_of_ne hb, stuff_nil]
  | case4 r ih =>
    rw [unstuff_pair, Option.map_eq_some_iff] at h
    obtain ⟨q, hq, rfl⟩ := h
    rw [stuff_cons_stuff, ← ih hq]
  | case5 c r hc => rw [unstuff_stuff_cons_of_ne hc] at h; cases h
  | case6 b c r hb ih =>
    rw [unstuff_cons_of_ne hb, Option.map_eq_some_iff] at h
    obtain ⟨q, hq, rfl⟩ := h
    rw [stuff_cons_of_ne hb, ← ih hq]

theorem unstuff_stuff_append (p r : List Byte) : unstuff (stuff p ++ r) = (unstuff r).map (p ++ ·) := by
  induction p with
  | nil => simp
  | cons b p ih =>
    by_cases h : b = STUFF
    · subst h; simp [ih, Function.comp_def]
    · simp [stuff_cons_of_ne h, unstuff_cons_of_ne h, ih, Function.comp_def]

/-- A part that de-stuffs is read apart from what follows it. -/
theorem unstuff_append {a p : List Byte} (h : unstuff a = some p) (r : List Byte) :
    unstuff (a ++ r) = (unstuff r).map (p ++ ·) := by
  rw [eq_stuff_of_unstuff h, unstuff_stuff_append]

/-- A maximal run of `STUFF` bytes of odd length, the one thing that does not de-stuff (R111). -/
def HasOddRun (r : List Byte) : Prop :=
  ∃ (before after : List Byte) (k : Nat), r = before ++ List.replicate k STUFF ++ after ∧
    before.getLast? ≠ some STUFF ∧ after.head? ≠ some STUFF ∧ k % 2 = 1

theorem HasOddRun.cons_pair {r : List Byte} (h : HasOddRun r) : HasOddRun (STUFF :: STUFF :: r) := by
  obtain ⟨before, after, k, rfl, hb, ha, hk⟩ := h
  cases before with
  | nil => exact ⟨[], after, k + 2, by simp [List.replicate_succ], by simp, ha, by omega⟩
  | cons x before => exact ⟨STUFF :: STUFF :: x :: before, after, k, by simp, by simpa using hb, ha, hk⟩

theorem HasOddRun.cons_of_ne {b : Byte} {r : List Byte} (hne : b ≠ STUFF) (h : HasOddRun r) : HasOddRun (b :: r) := by
  obtain ⟨before, after, k, rfl, hb, ha, hk⟩ := h
  refine ⟨b :: before, after, k, by simp, ?_, ha, hk⟩
  cases before with
  | nil => simpa using hne
  | cons x before => simpa using hb

theorem hasOddRun_of_unstuff_eq_none {r : List Byte} (h : unstuff r = none) : HasOddRun r := by
  induction r using unstuff.induct with
  | case1 => simp at h
  | case2 => exact ⟨[], [], 1, rfl, by simp, by simp, rfl⟩
  | case3 b hb => simp [unstuff_cons_of_ne hb] at h
  | case4 r ih => exact (ih (by simpa using h)).cons_pair
  | case5 c r hc => exact ⟨[], c :: r, 1, rfl, by simp, by simpa using hc, rfl⟩
  | case6 b c r hb ih => exact (ih (by simpa [unstuff_cons_of_ne hb] using h)).cons_of_ne hb

/-- An odd run leaves one `STUFF` without a partner. -/
theorem unstuff_odd_run {k : Nat} (hk : k % 2 = 1) {after : List Byte} (ha : after.head? ≠ some STUFF) :
    unstuff (List.replicate k STUFF ++ after) = none := by
  obtain ⟨m, rfl⟩ : ∃ m, k = 2 * m + 1 := ⟨k / 2, by omega⟩
  clear hk
  induction m with
  | zero =>
    cases after with
    | nil => rfl
    | cons c after => exact unstuff_stuff_cons_of_ne (by simpa using ha) after
  | succ m ih => simpa [Nat.mul_succ, List.replicate_succ] using ih

/-- What ends before a run de-stuffs apart from it: no pair lies across the border. -/
theorem unstuff_append_eq_none {before r : List Byte} (hb : before.getLast? ≠ some STUFF) (hr : unstuff r = none) :
    unstuff (before ++ r) = none := by
  induction before using unstuff.induct with
  | case1 => exact hr
  | case2 => simp at hb
  | case3 b hne => simp [unstuff_cons_of_ne hne, hr]
  | case4 before ih =>
    cases before with
    | nil => simp at hb
    | cons x before => simpa using ih (by simpa using hb)
  | case5 c before hc => exact unstuff_stuff_cons_of_ne hc _
  | case6 b c before hne ih =>
    have := ih (by simpa using hb)
    simp only [List.cons_append] at this ⊢
    rw [unstuff_cons_of_ne hne, this, Option.map_none]

theorem unstuff_eq_none_iff {r : List Byte} : unstuff r = none ↔ HasOddRun r := by
  refine ⟨hasOddRun_of_unstuff_eq_none, ?_⟩
  rintro ⟨before, after, k, rfl, hb, ha, hk⟩
  rw [List.append_assoc]
  exact unstuff_append_eq_none hb (unstuff_odd_run hk ha)

/-- A `STUFF` at the beginning of what de-stuffs has its partner after it. -/
theorem head?_eq_stuff_of_unstuff {r p : List Byte} (h : unstuff (STUFF :: r) = some p) : r.head? = some STUFF := by
  cases r with
  | nil => simp at h
  | cons c r =>
    by_contra hc
    rw [unstuff_stuff_cons_of_ne (by simpa using hc)] at h
    cases h

/-- Settles O4: R111. -/
theorem unstuffInvertsStuff : Obligations.UnstuffInvertsStuff :=
  ⟨unstuff_stuff, fun _ _ => eq_stuff_of_unstuff, fun _ => unstuff_eq_none_iff⟩

/-- Settles O3: the clauses about runs and pairs hold because `stuff p` de-stuffs. -/
theorem stuffingLaws : Obligations.StuffingLaws := by
  refine ⟨length_stuff, stuff_append, fun p q h => ?_, fun p before after k h hb ha => ?_,
    fun p q before after h hq => ?_, sum8_stuff⟩
  · simpa using congrArg unstuff h
  · by_contra hk
    have hnone : unstuff (stuff p) = none := unstuff_eq_none_iff.mpr ⟨before, after, k, h, hb, ha, by omega⟩
    rw [unstuff_stuff] at hnone
    cases hnone
  · have hsome := unstuff_stuff p
    rw [h, unstuff_append hq, Option.map_eq_some_iff] at hsome
    obtain ⟨_, hrest, -⟩ := hsome
    exact head?_eq_stuff_of_unstuff hrest

end Sys2Proof.Machine

end

section

/-! The frame and its fields (30_encoding.md R60), what `ENC` returns (40_encode.md R94 to R99) and what `DEC` makes of it
(41_decode.md R122 to R125). -/

namespace Sys2Proof.Machine

open Sys2Proof.Config

section Fields

variable (station length function : Byte) (region : List Byte) (checksum : Byte)

@[simp] theorem length_frameHead : (frameHead station length function region).length = 5 + region.length := by
  simp [frameHead]; omega

@[simp] theorem length_frameBytes :
    (frameBytes station length function region checksum).length = 6 + region.length := by
  simp [frameBytes]; omega

@[simp] theorem dropLast_frameBytes :
    (frameBytes station length function region checksum).dropLast = frameHead station length function region := by
  simp [frameBytes]

@[simp] theorem getLast?_frameBytes : (frameBytes station length function region checksum).getLast? = some checksum := by
  simp [frameBytes]

/-- One more byte makes the checksum a byte of the region. -/
theorem frameBytes_concat (extra : Byte) :
    frameBytes station length function region checksum ++ [extra] =
      frameBytes station length function (region ++ [checksum]) extra := by
  simp [frameBytes, frameHead]

theorem take_two_frameBytes : (frameBytes station length function region checksum).take 2 = [MARK0, MARK1] := rfl

@[simp] theorem byteAt_three_frameHead : byteAt (frameHead station length function region) 3 = length := rfl

@[simp] theorem byteAt_three_frameBytes : byteAt (frameBytes station length function region checksum) 3 = length := rfl

@[simp] theorem regionField_frameBytes :
    regionField (frameBytes station length function region checksum) = region := by
  simp [regionField, frameBytes, frameHead]

end Fields

/-- A buffer that begins with the marker and has room for every field is a frame's bytes. -/
theorem exists_eq_frameBytes {raw : List Byte} (h : 6 ≤ raw.length) (hm : raw.take 2 = [MARK0, MARK1]) :
    ∃ station length function region checksum, raw = frameBytes station length function region checksum := by
  match raw, h, hm with
  | b0 :: b1 :: station :: length :: function :: b5 :: rest, _, hm =>
    obtain ⟨rfl, rfl⟩ : b0 = MARK0 ∧ b1 = MARK1 := by simpa using hm
    refine ⟨station, length, function, (b5 :: rest).dropLast, (b5 :: rest).getLastD 0#8, ?_⟩
    rw [frameBytes, frameHead, List.append_assoc, dropLast_append_getLastD (List.cons_ne_nil b5 rest)]
    rfl

section Decode

variable {station length function e : Byte} {region : List Byte}

/-- A marked buffer whose checksum holds is decided by its region, LENGTH and FUNCTION (R119 to R122). -/
theorem decodeFrame_frameBytes {payload : List Byte} (hu : unstuff region = some payload) :
    decodeFrame (frameBytes station length function region (sum8 (frameHead station length function region))) e =
      if length.toNat ≠ 1 + payload.length then .error .malformedFrame
      else if function ≠ e then .error .unexpectedFunctionCode
      else .ok ⟨station, function, payload, sum8 (frameHead station length function region)⟩ := by
  rw [decodeFrame_of_unstuff_eq_some (by simp) (by simp) (take_two_frameBytes ..) (by simpa using hu) rfl rfl rfl,
    dropLast_frameBytes]

theorem decodeFrame_frameBytes_of_checksum_ne {checksum : Byte}
    (h : checksum ≠ sum8 (frameHead station length function region)) :
    decodeFrame (frameBytes station length function region checksum) e = .error .checksumMismatch :=
  decodeFrame_of_checksum_ne (by rw [length_frameBytes]; omega) (by simpa using h)

theorem decodeFrame_frameBytes_of_unstuff_eq_none (hu : unstuff region = none) :
    decodeFrame (frameBytes station length function region (sum8 (frameHead station length function region))) e =
      .error .malformedFrame :=
  decodeFrame_of_unstuff_eq_none (by rw [length_frameBytes]; omega) (by simp) (by simpa using hu)

end Decode

theorem toNat_lengthField {payload : List Byte} (h : payload.length ≤ MAX_PAYLOAD) :
    (lengthField payload).toNat = 1 + payload.length := by
  simp only [MAX_PAYLOAD] at h
  rw [lengthField, BitVec.toNat_ofNat]
  omega

/-- `ENC` returns its result and writes nothing else. -/
theorem exec_enc (station function : Byte) (payload : List Byte) (s : State) :
    exec (.enc station function payload) s = .next (s.returnEnc (encodeFrame station function payload)) := rfl

/-- The frame of a payload (R94): stuffed region, LENGTH of the payload, the sum of all bytes before it. -/
def encodedFrame (station function : Byte) (payload : List Byte) : List Byte :=
  frameBytes station (lengthField payload) function (stuff payload)
    (sum8 (frameHead station (lengthField payload) function (stuff payload)))

theorem encodeFrame_of_le {payload : List Byte} (h : payload.length ≤ MAX_PAYLOAD) (station function : Byte) :
    encodeFrame station function payload = .frame (encodedFrame station function payload) :=
  if_neg (Nat.not_lt.mpr h)

theorem encodeFrame_of_gt {payload : List Byte} (h : payload.length > MAX_PAYLOAD) (station function : Byte) :
    encodeFrame station function payload = .refuse := if_pos h

theorem encodeFrame_eq_frame_iff {station function : Byte} {payload F : List Byte} :
    encodeFrame station function payload = .frame F ↔
      payload.length ≤ MAX_PAYLOAD ∧ F = encodedFrame station function payload := by
  by_cases h : payload.length ≤ MAX_PAYLOAD
  · rw [encodeFrame_of_le h, EncOut.frame.injEq, eq_comm]
    exact (and_iff_right h).symm
  · rw [encodeFrame_of_gt (not_le.mp h)]
    exact ⟨nofun, fun hF => absurd hF.1 h⟩

/-- When the `ENC` port shows a frame, and which. -/
theorem exec_enc_frame_iff {station function : Byte} {payload F : List Byte} {s : State} :
    (∃ t, exec (.enc station function payload) s = .next t ∧ t.out.enc = some (.frame F)) ↔
      payload.length ≤ MAX_PAYLOAD ∧ F = encodedFrame station function payload := by
  rw [← encodeFrame_eq_frame_iff]
  constructor
  · rintro ⟨t, h, ht⟩
    cases h
    simpa using ht
  · intro h
    exact ⟨_, rfl, by simp [h]⟩

/-- The same of one run of `ENC`. -/
theorem encodedFrame_of_exec_enc {station function : Byte} {payload F : List Byte} {s t : State}
    (h : exec (.enc station function payload) s = .next t) (ht : t.out.enc = some (.frame F)) :
    payload.length ≤ MAX_PAYLOAD ∧ F = encodedFrame station function payload :=
  exec_enc_frame_iff.mp ⟨t, h, ht⟩

/-- R122: on a frame of `ENC` only the function code is left to check. -/
theorem decodeFrame_encodedFrame {payload : List Byte} (h : payload.length ≤ MAX_PAYLOAD) (station function e : Byte) :
    decodeFrame (encodedFrame station function payload) e =
      if function ≠ e then .error .unexpectedFunctionCode
      else .ok ⟨station, function, payload,
        sum8 (frameHead station (lengthField payload) function (stuff payload))⟩ := by
  rw [encodedFrame, decodeFrame_frameBytes (unstuff_stuff payload), if_neg (not_not.mpr (toNat_lengthField h))]

/-- A buffer that `DEC` accepts passes each check (R114). -/
theorem checks_of_decodeFrame_eq_ok {raw : List Byte} {e : Byte} {r : ResponseFrame} (h : decodeFrame raw e = .ok r) :
    6 ≤ raw.length ∧ raw.getLast? = some (sum8 raw.dropLast) ∧ raw.take 2 = [MARK0, MARK1] ∧
      ∃ payload, unstuff (regionField raw) = some payload := by
  have hlen : 5 ≤ raw.length := by
    by_contra hlt
    rw [decodeFrame_of_length_lt (not_le.mp hlt)] at h
    cases h
  have hsum : raw.getLast? = some (sum8 raw.dropLast) := by
    by_contra hne
    rw [decodeFrame_of_checksum_ne hlen hne] at h
    cases h
  refine ⟨?_, hsum, ?_, Option.ne_none_iff_exists'.mp fun hu => ?_⟩
  · by_contra hlt
    rw [decodeFrame_of_length_eq_five hlen hsum (by omega)] at h
    cases h
  · by_contra hm
    rw [decodeFrame_of_marker_ne hlen hsum hm] at h
    cases h
  · rw [decodeFrame_of_unstuff_eq_none hlen hsum hu] at h
    cases h

/-- R122: what `DEC` accepts is the frame of the record's fields. -/
theorem eq_encodedFrame_of_decodeFrame {raw : List Byte} {e : Byte} {r : ResponseFrame} (h : decodeFrame raw e = .ok r) :
    r.function = e ∧ raw.getLast? = some r.checksum ∧ r.payload.length ≤ MAX_PAYLOAD ∧
      raw = encodedFrame r.station r.function r.payload := by
  obtain ⟨hlen, hsum, hm, payload, hu⟩ := checks_of_decodeFrame_eq_ok h
  obtain ⟨station, length, function, region, checksum, rfl⟩ := exists_eq_frameBytes hlen hm
  obtain rfl : checksum = sum8 (frameHead station length function region) := by simpa using hsum
  rw [regionField_frameBytes] at hu
  rw [decodeFrame_frameBytes hu] at h
  split_ifs at h with hl hf
  cases h
  rw [not_not] at hl hf
  have hle : payload.length ≤ MAX_PAYLOAD := by
    have := length.isLt
    simp only [MAX_PAYLOAD]
    omega
  have hlf : lengthField payload = length := BitVec.eq_of_toNat_eq ((toNat_lengthField hle).trans hl.symm)
  exact ⟨hf, by simp, hle, by rw [encodedFrame, hlf, eq_stuff_of_unstuff hu]⟩

/-- Settles O8: `DEC` inverts `ENC` on its frames, and what it accepts is the frame of what it returns. -/
theorem decAcceptsExactlyEncodedFrames : Obligations.DecAcceptsExactlyEncodedFrames := by
  intro raw e r s
  rw [exec_enc_frame_iff]
  constructor
  · rintro ⟨t, h, ht⟩
    rw [exec_dec] at h
    cases h
    exact eq_encodedFrame_of_decodeFrame (by simpa using ht)
  · rintro ⟨rfl, hlast, hle, rfl⟩
    have hck : sum8 (frameHead r.station (lengthField r.payload) r.function (stuff r.payload)) = r.checksum := by
      simpa [encodedFrame] using hlast
    refine ⟨_, exec_dec .., ?_⟩
    rw [returnDec_out, decodeFrame_encodedFrame hle, if_neg (not_not.mpr rfl), hck]

/-- Settles O5: the two branches of `encodeFrame`. -/
theorem encBuildsFrameOrRefuses : Obligations.EncBuildsFrameOrRefuses := by
  intro station function payload s
  refine ⟨fun h => ⟨_, rfl, ?_, ?_⟩, fun h => ?_⟩
  · rw [exec_enc, encodeFrame_of_le h]
    rfl
  · simp only [List.length_append, List.length_cons, List.length_nil, length_stuff]
    omega
  · rw [exec_enc, encodeFrame_of_gt h]
    rfl

/-- Settles O6: the fields of a frame; stuffing at most doubles the payload. -/
theorem encodedFrameShape : Obligations.EncodedFrameShape := by
  intro station function payload F s t h ht
  obtain ⟨hle, rfl⟩ := encodedFrame_of_exec_enc h ht
  have hstuff := length_stuff_le payload
  have hmax : payload.length ≤ 254 := hle
  refine ⟨rfl, by simp [encodedFrame], toNat_lengthField hle, ?_, ?_⟩
  · simp [encodedFrame, MIN_FRAME]
  · simp only [encodedFrame, length_frameBytes, MAX_FRAME]
    omega

/-- Settles O9: both `DEC` and the second step of `ROUNDTRIP` decode the frame of the payload. -/
theorem roundTripReturnsOperands : Obligations.RoundTripReturnsOperands := by
  intro station function payload s hle
  have hdec := decodeFrame_encodedFrame hle station function function
  rw [if_neg (not_not.mpr rfl)] at hdec
  refine ⟨encodedFrame station function payload, _, _, _, exec_enc .., ?_, getLast?_frameBytes .., ?_, ?_, rfl, ?_⟩
  · rw [encodeFrame_of_le hle, returnEnc_out]
  · rw [exec_dec, hdec]
    rfl
  · change execRoundtrip station function payload s = _
    rw [execRoundtrip, encodeFrame_of_le hle]
    rfl
  · rw [step_running rfl, resume, hdec]
    rfl

/-- Settles O10: `ROUNDTRIP` on the refusing branch of `encodeFrame`. -/
theorem roundTripStopsAtRefusal : Obligations.RoundTripStopsAtRefusal := by
  intro station function payload s h
  change execRoundtrip station function payload s = _
  rw [execRoundtrip, encodeFrame_of_gt h]
  rfl

/-! ### Damaged frames -/

theorem xor_shiftLeft_one_ne (b : Byte) {k : Nat} (hk : k < 8) : b ^^^ (1#8 <<< k) ≠ b := by
  intro h
  have hbit := congrArg (·.getLsbD k) h
  simp [hk] at hbit

/-- Changing one byte changes the sum. -/
theorem sum8_modify_ne {g : Byte → Byte} (hg : ∀ b, g b ≠ b) {r : List Byte} {i : Nat} (hi : i < r.length) :
    sum8 (r.modify i g) ≠ sum8 r := by
  induction r generalizing i with
  | nil => simp at hi
  | cons b r ih =>
    cases i with
    | zero =>
      rw [List.modify_zero_cons, sum8_cons, sum8_cons, add8, add8, ne_eq, BitVec.add_left_inj]
      exact hg b
    | succ i =>
      rw [List.modify_succ_cons, sum8_cons, sum8_cons, add8, add8, ne_eq, BitVec.add_right_inj]
      exact ih (by simpa using hi)

theorem modify_append_of_lt {g : Byte → Byte} {l r : List Byte} {i : Nat} (hi : i < l.length) :
    (l ++ r).modify i g = l.modify i g ++ r := by
  induction l generalizing i with
  | nil => simp at hi
  | cons b l ih =>
    cases i with
    | zero => rfl
    | succ i => simpa using ih (by simpa using hi)

theorem modify_length_concat (g : Byte → Byte) (l : List Byte) (c : Byte) :
    (l ++ [c]).modify l.length g = l ++ [g c] := by
  induction l with
  | nil => rfl
  | cons b l ih => simpa using ih

/-- A changed byte breaks the checksum equation, whether it is summed or is the checksum itself. -/
theorem getLast?_modify_ne {g : Byte → Byte} (hg : ∀ b, g b ≠ b) {F : List Byte} {i : Nat} (hi : i < F.length)
    (h : F.getLast? = some (sum8 F.dropLast)) : (F.modify i g).getLast? ≠ some (sum8 (F.modify i g).dropLast) := by
  obtain rfl | ⟨head, c, rfl⟩ := F.eq_nil_or_concat'
  · cases h
  obtain rfl : c = sum8 head := by simpa using h
  rcases Nat.lt_or_ge i head.length with hlt | hge
  · rw [modify_append_of_lt hlt]
    simpa using (sum8_modify_ne hg hlt).symm
  · obtain rfl : i = head.length := by simp at hi; omega
    rw [modify_length_concat]
    simpa using hg (sum8 head)

/-- Settles O11: an accepted frame satisfies the checksum equation, and an inverted bit breaks it. -/
theorem singleBitFlipIsChecksumMismatch : Obligations.SingleBitFlipIsChecksumMismatch := by
  intro F e e' r s t h ht i hi k hk
  rw [exec_dec] at h
  cases h
  obtain ⟨hlen, hsum, -⟩ := checks_of_decodeFrame_eq_ok (r := r) (by simpa using ht)
  rw [exec_dec, decodeFrame_of_checksum_ne (by rw [List.length_modify]; omega)
    (getLast?_modify_ne (xor_shiftLeft_one_ne · hk) hi hsum)]
  rfl

theorem length_of_unstuff_stuff_concat {p q : List Byte} {c : Byte} (h : unstuff (stuff p ++ [c]) = some q) :
    q.length = p.length + 1 := by
  rw [unstuff_stuff_append, Option.map_eq_some_iff] at h
  obtain ⟨x, hx, rfl⟩ := h
  have hne : c ≠ STUFF := by rintro rfl; cases hx
  obtain rfl : [c] = x := by simpa [unstuff_cons_of_ne hne] using hx
  rw [List.length_append, List.length_singleton]

/-- The old checksum byte, read as payload, is one logical byte too many (R127 (f)). -/
theorem decodeFrame_frame_concat {payload : List Byte} (h : payload.length ≤ MAX_PAYLOAD)
    (station function e extra : Byte) :
    decodeFrame (encodedFrame station function payload ++ [extra]) e = .error .checksumMismatch ∨
      decodeFrame (encodedFrame station function payload ++ [extra]) e = .error .malformedFrame := by
  rw [encodedFrame, frameBytes_concat]
  generalize sum8 (frameHead station (lengthField payload) function (stuff payload)) = ck
  by_cases hsum : extra = sum8 (frameHead station (lengthField payload) function (stuff payload ++ [ck]))
  · refine .inr ?_
    cases hu : unstuff (stuff payload ++ [ck]) with
    | none => rw [hsum, decodeFrame_frameBytes_of_unstuff_eq_none hu]
    | some q =>
      rw [hsum, decodeFrame_frameBytes hu, if_pos]
      rw [toNat_lengthField h, length_of_unstuff_stuff_concat hu]
      omega
  · exact .inl (decodeFrame_frameBytes_of_checksum_ne hsum)

/-- Settles O12: the region has one byte too many, whatever the extra byte. -/
theorem extraByteIsNeverAccepted : Obligations.ExtraByteIsNeverAccepted := by
  intro station function e extra payload F s t h ht
  obtain ⟨hle, rfl⟩ := encodedFrame_of_exec_enc h ht
  refine ⟨_, exec_dec .., ?_⟩
  simpa using decodeFrame_frame_concat hle station function e extra

end Sys2Proof.Machine

end

section

/-! The scanner's other phases (42_scanner.md R132, R134 to R137): one equation per branch of `scanStep`; and what a step does to
`BUF`, whatever the phase (10_state.md R22, 42_scanner.md R140). -/

namespace Sys2Proof.Machine

open Sys2Proof.Config

section

variable {c : ScanState} {b : Byte}

/-- R132, first line. -/
theorem scanStep_seek1_mark1 (h : c.phase = .seek1) :
    scanStep MARK1 c = quiet ((c.count.bufAppend MARK1).setPhase .hdrStation) := by
  rw [scanStep, h]
  exact if_pos rfl

/-- R132, second line: the held byte stays, so the step only counts. -/
theorem scanStep_seek1_mark0 (h : c.phase = .seek1) : scanStep MARK0 c = quiet c.count := by
  have hrow : rowSeek1Mark0 c = quiet c.count := congrArg quiet (setPhase_of_phase_eq h)
  rw [scanStep, h, ← hrow]
  rfl

/-- R132, third line. -/
theorem scanStep_seek1_of_ne (h : c.phase = .seek1) (h1 : b ≠ MARK1) (h0 : b ≠ MARK0) :
    scanStep b c = quiet (c.count.bufClear.setPhase .seek0) := by
  rw [scanStep, h]
  exact (if_neg h1).trans (if_neg h0)

/-- R134: in both branches `REM` is the byte. -/
theorem scanStep_hdrLen (h : c.phase = .hdrLen) : scanStep b c =
    quiet (((c.count.bufAppend b).setRem b).setPhase (if b = 0#8 then .cksum else .bodyFn)) := by
  rw [scanStep, h]
  by_cases hb : b = 0#8
  · subst hb; rfl
  · simp only [hb, if_false]; rfl

/-- R135. -/
theorem scanStep_bodyFn (h : c.phase = .bodyFn) : scanStep b c = quiet (c.count.bufAppend b).takeLogical := by
  rw [scanStep, h]
  rfl

/-- R136, first branch. -/
theorem scanStep_body_stuff (h : c.phase = .body) :
    scanStep STUFF c = quiet ((c.count.bufAppend STUFF).setPhase .bodyEsc) := by
  rw [scanStep, h]
  exact if_pos rfl

/-- R136, second branch. -/
theorem scanStep_body_of_ne (h : c.phase = .body) (hb : b ≠ STUFF) :
    scanStep b c = quiet (c.count.bufAppend b).takeLogical := by
  rw [scanStep, h]
  exact if_neg hb

/-- R137, first branch. -/
theorem scanStep_bodyEsc_stuff (h : c.phase = .bodyEsc) :
    scanStep STUFF c = quiet (c.count.bufAppend STUFF).takeLogical := by
  rw [scanStep, h]
  exact if_pos rfl

/-- R137, second branch. -/
theorem scanStep_bodyEsc_of_ne (h : c.phase = .bodyEsc) (hb : b ≠ STUFF) :
    scanStep b c = deliver (c.count.bufAppend b) := by
  rw [scanStep, h]
  exact if_neg hb

end

theorem bytes_count_bufAppend (c : ScanState) (b : Byte) : (c.count.bufAppend b).bytes = c.bytes ++ [b] := by
  rw [bytes_bufAppend, count_bytes]

/-- A step that delivers hands out the held bytes with its own after them (R137, R138). -/
theorem exec_scanb_of_deliver_append {s : State} {b : Byte}
    (h : scanStep b s.scan = deliver (s.scan.count.bufAppend b)) :
    exec (.scanb b) s = .next (s.scanned
      { phase := .seek0, buf := [], blen := 0, rem := 0, consumed := s.scan.consumed + 1 }
      (.frameReady (s.scan.bytes ++ [b]))) := by
  rw [← bytes_count_bufAppend]
  exact exec_scanb_of_deliver h

/-- Settles O19: the three lines of R132 are quiet. -/
theorem seekingCompletesOrDropsMarker : Obligations.SeekingCompletesOrDropsMarker := fun _ h =>
  ⟨exec_scanb_of_quiet (scanStep_seek1_mark1 h), exec_scanb_of_quiet (scanStep_seek1_mark0 h),
    fun _ h1 h0 => exec_scanb_of_quiet (scanStep_seek1_of_ne h h1 h0)⟩

/-- Settles O21: `HDR_LEN` is quiet. -/
theorem lengthLoadsRemaining : Obligations.LengthLoadsRemaining := fun _ _ h => exec_scanb_of_quiet (scanStep_hdrLen h)

/-- Settles O22: `BODY_FN` takes one logical byte, whatever it is. -/
theorem functionIsOneLogicalByte : Obligations.FunctionIsOneLogicalByte := fun _ _ h =>
  ⟨_, decrement_pos, exec_scanb_of_quiet (scanStep_bodyFn h)⟩

/-- Settles O23: the two branches of R136. -/
theorem bodyByteOrPendingMarker : Obligations.BodyByteOrPendingMarker := fun _ h =>
  ⟨exec_scanb_of_quiet (scanStep_body_stuff h),
    fun _ hb => ⟨_, decrement_pos, exec_scanb_of_quiet (scanStep_body_of_ne h hb)⟩⟩

/-- Settles O24: the two branches of R137. -/
theorem pairCountsOnceOrClosesCandidate : Obligations.PairCountsOnceOrClosesCandidate := fun _ h =>
  ⟨⟨_, decrement_pos, exec_scanb_of_quiet (scanStep_bodyEsc_stuff h)⟩,
    fun _ hb => exec_scanb_of_deliver_append (scanStep_bodyEsc_of_ne h hb)⟩

/-- Settles O26: each row writes what its branch says, whatever `PHASE` holds. -/
theorem seekAndHeaderRowsRunTheirBranch : Obligations.SeekAndHeaderRowsRunTheirBranch := fun _ _ =>
  ⟨rfl, rfl, rfl, rfl, rfl, rfl, rfl, rfl⟩

/-- Settles O27: each row writes what its branch says; the last two deliver the held bytes and their own. -/
theorem bodyAndChecksumRowsRunTheirBranch : Obligations.BodyAndChecksumRowsRunTheirBranch := by
  intro s b
  rw [← bytes_count_bufAppend]
  exact ⟨decrement s.scan.rem, decrement_pos, rfl, rfl, rfl, rfl, rfl, rfl⟩

/-- Settles O32: `SCANR` writes the reset values, and rewrites them at reset. -/
theorem scanrRestoresReset : Obligations.ScanrRestoresReset := ⟨fun _ => rfl, rfl⟩

/-! ### What a step does to `BUF` -/

/-- The two situations in which a byte completes the candidate (42_scanner.md R140). -/
def ScanState.Closes (c : ScanState) (b : Byte) : Prop := c.phase = .cksum ∨ (c.phase = .bodyEsc ∧ b ≠ STUFF)

/-- `d` holds the bytes of `c` and this one, and has not gone back to seeking. -/
structure ScanState.Extends (d c : ScanState) (b : Byte) : Prop where
  buf : d.buf = c.buf.write c.blen b
  blen : d.blen = c.blen + 1
  phase : d.phase ≠ .seek0 ∧ (c.phase ≠ .seek0 → d.phase ≠ .seek1)

theorem ScanState.Extends.bytes {d c : ScanState} {b : Byte} (h : d.Extends c b) : d.bytes = c.bytes ++ [b] := by
  rw [← bytes_bufAppend, ScanState.bytes, ScanState.bytes, h.buf, h.blen]
  rfl

theorem takeLogical_extends (c : ScanState) (b : Byte) : (c.count.bufAppend b).takeLogical.Extends c b :=
  ⟨rfl, rfl, by rw [takeLogical_phase]; split_ifs <;> simp⟩

/-- The five things a step can do to `BUF`: append its byte, keep it in either seeking phase, drop it, deliver it. -/
theorem scanStep_buf_cases (b : Byte) (c : ScanState) :
    (¬ c.Closes b ∧ ∃ d : ScanState, scanStep b c = quiet d ∧ d.Extends c b) ∨
    (c.phase = .seek0 ∧ b ≠ MARK0 ∧ scanStep b c = quiet c.count) ∨
    (c.phase = .seek1 ∧ b = MARK0 ∧ scanStep b c = quiet c.count) ∨
    (c.phase = .seek1 ∧ b ≠ MARK0 ∧ b ≠ MARK1 ∧ scanStep b c = quiet (c.count.bufClear.setPhase .seek0)) ∨
    (c.Closes b ∧ scanStep b c = deliver (c.count.bufAppend b)) := by
  rcases scanStep_cases b c with ⟨hp, rfl, e⟩ | ⟨hp, hb, -⟩ | ⟨hp, rfl, e⟩ | ⟨hp, rfl, -⟩ | ⟨hp, h1, h0, e⟩ | ⟨hp, e⟩ |
    ⟨hp, e⟩ | ⟨hp, e⟩ | ⟨hp, rfl, e⟩ | ⟨hp, hb, e⟩ | ⟨hp, rfl, e⟩ | ⟨hp, e⟩
  · exact .inl ⟨by simp [ScanState.Closes, hp], _, e, rfl, rfl, by simp [hp]⟩
  · exact .inr (.inl ⟨hp, hb, scanStep_seek0_of_ne_mark0 hp hb⟩)
  · exact .inl ⟨by simp [ScanState.Closes, hp], _, e, rfl, rfl, by simp⟩
  · exact .inr (.inr (.inl ⟨hp, rfl, scanStep_seek1_mark0 hp⟩))
  · exact .inr (.inr (.inr (.inl ⟨hp, h0, h1, e⟩)))
  · exact .inl ⟨by simp [ScanState.Closes, hp], _, e, rfl, rfl, by simp⟩
  · exact .inl ⟨by simp [ScanState.Closes, hp], _, e, rfl, rfl, by rw [setPhase_phase]; split_ifs <;> simp⟩
  · exact .inl ⟨by simp [ScanState.Closes, hp], _, e, takeLogical_extends c b⟩
  · exact .inl ⟨by simp [ScanState.Closes, hp], _, e, rfl, rfl, by simp⟩
  · exact .inl ⟨by simp [ScanState.Closes, hp], _, e, takeLogical_extends c b⟩
  · exact .inl ⟨by simp [ScanState.Closes, hp], _, e, takeLogical_extends c STUFF⟩
  · exact .inr (.inr (.inr (.inr ⟨hp.symm, e⟩)))

/-- R140: a frame comes out exactly when the byte completes the candidate. -/
theorem scanStep_frameReady_iff {b : Byte} {c : ScanState} {f : List Byte} :
    (scanStep b c).2 = .frameReady f ↔ c.Closes b ∧ f = c.bytes ++ [b] := by
  rcases scanStep_buf_cases b c with ⟨hc, d, e, -⟩ | ⟨hp, -, e⟩ | ⟨hp, -, e⟩ | ⟨hp, -, -, e⟩ | ⟨hc, e⟩ <;> rw [e]
  · simp [hc]
  · simp [ScanState.Closes, hp]
  · simp [ScanState.Closes, hp]
  · simp [ScanState.Closes, hp]
  · simp [hc, eq_comm]

theorem scanStep_of_closes {b : Byte} {c : ScanState} (h : c.Closes b) :
    scanStep b c = deliver (c.count.bufAppend b) := by
  rcases h with h | ⟨h, hb⟩
  · exact scanStep_cksum h
  · exact scanStep_bodyEsc_of_ne h hb

/-- Settles O29: the five cases of `scanStep_buf_cases`, read at the addresses. -/
theorem scanbAppendsOrClears : Obligations.ScanbAppendsOrClears := by
  intro s b
  refine ⟨_, exec_scanb b s, ?_⟩
  rcases scanStep_buf_cases b s.scan with ⟨-, d, e, hd⟩ | ⟨hp, hb, e⟩ | ⟨hp, hb, e⟩ | ⟨hp, h0, h1, e⟩ | ⟨-, e⟩ <;>
    rw [e]
  · refine .inl ⟨rfl, hd.bytes, hd.blen, ?_, fun a ha => ?_⟩
    · rw [afterScan_scan, quiet_fst, hd.buf, Memory.read_write_same]
    · rw [afterScan_scan, quiet_fst, hd.buf, Memory.read_write_ne _ _ ha]
  · exact .inr (.inl ⟨rfl, hb, hp, rfl, fun _ => rfl⟩)
  · exact .inr (.inr (.inl ⟨rfl, hb, hp, rfl, fun _ => rfl⟩))
  · exact .inr (.inr (.inr ⟨rfl, rfl, .inr ⟨rfl, hp, h0, h1⟩⟩))
  · exact .inr (.inr (.inr ⟨rfl, rfl, .inl (by simp)⟩))

/-- Settles O30: R140, and the registers that `deliver` leaves. -/
theorem frameReadyCarriesTheCandidate : Obligations.FrameReadyCarriesTheCandidate := by
  intro s b
  refine ⟨_, exec_scanb b s, ?_, fun f hf => ?_⟩
  · simp only [afterScan_event, scanStep_frameReady_iff, exists_and_left, exists_eq, and_true]
    rfl
  · obtain ⟨hc, rfl⟩ := scanStep_frameReady_iff.mp hf
    rw [scanStep_of_closes hc]
    exact ⟨rfl, rfl, rfl, rfl, rfl⟩

end Sys2Proof.Machine

end

section

/-! One equation per turn of `FEED` (42_scanner.md R145), the four forms an instruction's meaning can have, and what follows for
every instruction and every step: outputs and `CONSUMED` are not read (10_state.md R24, R28), the operation port is left alone. -/

namespace Sys2Proof.Machine

open Sys2Proof.Config

/-! ### The turns of `FEED` -/

/-- The outcome of a chunk in which no byte completed a candidate (R145, its last lines). -/
def chunkOutcome (total : Nat) (p : Phase) : ScanOutcome :=
  if total > 0 ∧ p = .seek0 then .garbage total else .needMoreData

/-- The state in which a chunk ends: these registers, this event, the outcome and `used` at the `FEED` port, nothing running. -/
def State.chunkEnd (s : State) (c : ScanState) (e : Event) (o : ScanOutcome) (used : Nat) : State :=
  { s with scan := c, out := ⟨e, none, none, some ⟨o, used⟩⟩, running := none }

@[simp] theorem chunkEnd_scan (s : State) (c : ScanState) (e : Event) (o : ScanOutcome) (used : Nat) :
    (s.chunkEnd c e o used).scan = c := rfl

@[simp] theorem chunkEnd_feed (s : State) (c : ScanState) (e : Event) (o : ScanOutcome) (used : Nat) :
    (s.chunkEnd c e o used).out.feed = some ⟨o, used⟩ := rfl

theorem feedEnd_eq (total used : Nat) (s : State) :
    s.feedEnd total used = s.returnFeed (chunkOutcome total s.scan.phase) used := by
  rw [State.feedEnd, chunkOutcome]
  split_ifs <;> rfl

theorem feedNext_nil_eq (total used : Nat) (s : State) :
    feedNext total used [] s = s.chunkEnd s.scan .none (chunkOutcome total s.scan.phase) used := by
  rw [feedNext_nil, feedEnd_eq]
  rfl

section

variable {total used : Nat} {b : Byte} {rest : List Byte} {s : State}

/-- The byte completes a candidate: the chunk ends with it. -/
theorem feedNext_of_deliver {f : List Byte} (h : (scanStep b s.scan).2 = .frameReady f) :
    feedNext total used (b :: rest) s = s.chunkEnd (scanStep b s.scan).1 (.frameReady f) (.frameReady f) (used + 1) := by
  simp only [feedNext, afterScan_event, h]
  rw [State.chunkEnd, ← h]
  rfl

/-- The last byte completes none: the chunk ends without a frame. -/
theorem feedNext_of_quiet_last {c : ScanState} (h : scanStep b s.scan = quiet c) :
    feedNext total used [b] s = s.chunkEnd c .none (chunkOutcome total c.phase) (used + 1) := by
  simp only [feedNext, afterScan_event, h, quiet_snd, feedEnd_eq]
  rfl

/-- A byte before the last completes none: the loop goes on. -/
theorem feedNext_of_quiet {c : ScanState} (h : scanStep b s.scan = quiet c) (hr : rest ≠ []) :
    feedNext total used (b :: rest) s = (s.afterScan (quiet c)).goOn (.feed total (used + 1) rest) := by
  obtain ⟨d, rest, rfl⟩ := List.exists_cons_of_ne_nil hr
  simp only [feedNext, afterScan_event, h, quiet_snd]

end

/-- A step either delivers or is quiet. -/
theorem scanStep_deliver_or_quiet (b : Byte) (c : ScanState) :
    (∃ f, (scanStep b c).2 = .frameReady f) ∨ ∃ d, scanStep b c = quiet d := by
  cases h : (scanStep b c).2 with
  | none => exact .inr ⟨(scanStep b c).1, Prod.ext rfl h⟩
  | frameReady f => exact .inl ⟨f, rfl⟩

/-- The same machine with other values at its ports. -/
def State.withOut (s : State) (out : Outputs) : State := { s with out := out }

/-- The loop starts from the scanner alone: what the ports showed before is gone (R28). -/
theorem feedNext_out (total used : Nat) (bytes : List Byte) (s : State) (out : Outputs) :
    feedNext total used bytes (s.withOut out) = feedNext total used bytes s := by
  cases bytes with
  | nil => rw [feedNext_nil_eq, feedNext_nil_eq]; rfl
  | cons b rest => rfl

/-! ### `CONSUMED` is not read -/

/-- The same scanner with another count. -/
def ScanState.withConsumed (c : ScanState) (n : Nat) : ScanState := { c with consumed := n }

/-- The same machine with another count. -/
def State.withConsumed (s : State) (n : Nat) : State := { s with scan := s.scan.withConsumed n }

/-- With another count a scanner step does the same to everything else. -/
def IgnoresConsumed (row : ScanState → ScanState × Event) : Prop :=
  ∀ c n, ∃ m, row (c.withConsumed n) = ((row c).1.withConsumed m, (row c).2)

theorem scanStep_ignoresConsumed (b : Byte) : IgnoresConsumed (scanStep b) := by
  intro c n
  refine ⟨n + 1, ?_⟩
  have hphase : (c.withConsumed n).phase = c.phase := rfl
  simp only [scanStep, hphase]
  cases c.phase
  case hdrStation | bodyFn | cksum => rfl
  all_goals
    dsimp only
    split_ifs <;> rfl

theorem feedNext_ignoresConsumed (total used : Nat) (bytes : List Byte) (s : State) (n : Nat) :
    ∃ m, feedNext total used bytes (s.withConsumed n) = (feedNext total used bytes s).withConsumed m := by
  cases bytes with
  | nil => exact ⟨n, by rw [feedNext_nil_eq, feedNext_nil_eq]; rfl⟩
  | cons b rest =>
    obtain ⟨m, hm⟩ := scanStep_ignoresConsumed b s.scan n
    have hscan : (s.withConsumed n).scan = s.scan.withConsumed n := rfl
    refine ⟨m, ?_⟩
    rcases scanStep_deliver_or_quiet b s.scan with ⟨f, hf⟩ | ⟨d, hd⟩
    · rw [feedNext_of_deliver hf, feedNext_of_deliver (f := f) (by rw [hscan, hm, hf]), hscan, hm]
      rfl
    · have hq : scanStep b (s.withConsumed n).scan = quiet (d.withConsumed m) := by rw [hscan, hm, hd]; rfl
      rcases eq_or_ne rest [] with rfl | hr
      · rw [feedNext_of_quiet_last hd, feedNext_of_quiet_last hq]
        rfl
      · rw [feedNext_of_quiet hd hr, feedNext_of_quiet hq hr]
        rfl

/-! ### The forms of an instruction -/

/-- The four forms of an instruction's meaning: a step of the scanner, a value at the ports, the first step of a chunk, and
`ROUNDTRIP`, which also leaves something to run. -/
inductive Form (i : Instr) : Prop where
  | scan (row : ScanState → ScanState × Event) (ignores : IgnoresConsumed row)
      (eq : ∀ s, exec i s = .next (s.afterScan (row s.scan)))
  | output (out : Outputs) (eq : ∀ s : State, exec i s = .next { s with out := out })
  | chunk (bytes : List Byte) (eq : ∀ s, exec i s = .next (feedChunk bytes s))
  | roundtrip (out : Outputs) (run : Option Running)
      (eq : ∀ s : State, exec i s = .next { s with out := out, running := run })

/-- A row that counts its byte and reads the count nowhere else. -/
theorem Form.counted {i : Instr} (row : ScanState → ScanState × Event)
    (ignores : ∀ c n, row (c.withConsumed n) = ((row c).1.withConsumed (n + 1), (row c).2))
    (eq : ∀ s, exec i s = .next (s.afterScan (row s.scan))) : Form i :=
  .scan row (fun c n => ⟨n + 1, ignores c n⟩) eq

theorem Form.writePhase {i : Instr} (p : Phase) (eq : ∀ s, exec i s = .next (s.writePhase p)) : Form i :=
  .scan (fun c => quiet (c.setPhase p)) (fun _ n => ⟨n, rfl⟩) eq

/-- The first step of `ROUNDTRIP` writes the `ENC` port and what is left to run. -/
theorem exec_roundtrip (station function : Byte) (payload : List Byte) : ∃ e run,
    (∀ r, run = some r → r.wf) ∧ ∀ s : State, exec (.roundtrip station function payload) s =
      .next { s with out := ⟨.none, some e, none, none⟩, running := run } := by
  have hexec (s : State) : exec (.roundtrip station function payload) s = execRoundtrip station function payload s := rfl
  cases h : encodeFrame station function payload with
  | refuse => exact ⟨.refuse, none, nofun, fun s => by rw [hexec, execRoundtrip, h]; rfl⟩
  | frame F =>
    refine ⟨.frame F, some (.decode F function), ?_, fun s => by rw [hexec, execRoundtrip, h]; rfl⟩
    rintro _ ⟨⟩
    trivial

theorem form_roundtrip (station function : Byte) (payload : List Byte) :
    Form (.roundtrip station function payload) :=
  let ⟨e, run, _, eq⟩ := exec_roundtrip station function payload
  .roundtrip ⟨.none, some e, none, none⟩ run eq

/-- Every row of the table has one of the forms. -/
theorem exec_form : ∀ i : Instr, Form i
  | .frame st l f region c => .chunk (frameBytes st l f region c) fun _ => rfl
  | .mark => .chunk [MARK0, MARK1] fun _ => rfl
  | .stuffPair => .chunk [STUFF, STUFF] fun _ => rfl
  | .enc st f p => .output ⟨.none, some (encodeFrame st f p), none, none⟩ fun _ => rfl
  | .dec raw e => .output ⟨.none, none, some (decodeFrame raw e), none⟩ (exec_dec raw e)
  | .scanb b => .scan (scanStep b) (scanStep_ignoresConsumed b) fun _ => rfl
  | .scanr => .scan (fun _ => quiet ScanState.reset) (fun _ _ => ⟨0, rfl⟩) fun _ => rfl
  | .feed chunk => .chunk chunk fun _ => rfl
  | .roundtrip st f p => form_roundtrip st f p
  | .scanbSeek0Mark0 => .counted rowSeek0Mark0 (fun _ _ => rfl) fun _ => rfl
  | .scanbSeek0Other _ => .counted rowSeek0Other (fun _ _ => rfl) fun _ => rfl
  | .scanbSeek1Mark1 => .counted rowSeek1Mark1 (fun _ _ => rfl) fun _ => rfl
  | .scanbSeek1Mark0 => .counted rowSeek1Mark0 (fun _ _ => rfl) fun _ => rfl
  | .scanbSeek1Other _ => .counted rowSeek1Other (fun _ _ => rfl) fun _ => rfl
  | .scanbHdrStationAny b => .counted (rowHdrStation b) (fun _ _ => rfl) fun _ => rfl
  | .scanbHdrLenZero => .counted rowHdrLenZero (fun _ _ => rfl) fun _ => rfl
  | .scanbHdrLenNonzero b => .counted (rowHdrLenNonzero b) (fun _ _ => rfl) fun _ => rfl
  | .scanbBodyFnAny b => .counted (rowBodyFn b) (fun _ _ => rfl) fun _ => rfl
  | .scanbBodyMark0 => .counted rowBodyMark0 (fun _ _ => rfl) fun _ => rfl
  | .scanbBodyOther b => .counted (rowBodyOther b) (fun _ _ => rfl) fun _ => rfl
  | .scanbBodyEscMark0 => .counted rowBodyEscMark0 (fun _ _ => rfl) fun _ => rfl
  | .scanbBodyEscOther b => .counted (rowBodyEscOther b) (fun _ _ => rfl) fun _ => rfl
  | .scanbCksumAny b => .counted (rowCksum b) (fun _ _ => rfl) fun _ => rfl
  | .ok r => .output ⟨.none, none, some (.ok r), none⟩ fun _ => rfl
  | .malformedFrame => .output ⟨.none, none, some (.error .malformedFrame), none⟩ fun _ => rfl
  | .checksumMismatch => .output ⟨.none, none, some (.error .checksumMismatch), none⟩ fun _ => rfl
  | .unexpectedFunctionCode => .output ⟨.none, none, some (.error .unexpectedFunctionCode), none⟩ fun _ => rfl
  | .needMoreData n => .output ⟨.none, none, none, some ⟨.needMoreData, n⟩⟩ fun _ => rfl
  | .frameReady f n => .output ⟨.none, none, none, some ⟨.frameReady f, n⟩⟩ fun _ => rfl
  | .garbage k => .output ⟨.none, none, none, some ⟨.garbage k, k⟩⟩ fun _ => rfl
  | .phaseSeek0 => .writePhase .seek0 fun _ => rfl
  | .phaseSeek1 => .writePhase .seek1 fun _ => rfl
  | .phaseHdrStation => .writePhase .hdrStation fun _ => rfl
  | .phaseHdrLen => .writePhase .hdrLen fun _ => rfl
  | .phaseBodyFn => .writePhase .bodyFn fun _ => rfl
  | .phaseBody => .writePhase .body fun _ => rfl
  | .phaseBodyEsc => .writePhase .bodyEsc fun _ => rfl
  | .phaseCksum => .writePhase .cksum fun _ => rfl

/-- Settles O57: no form of meaning stops or writes the queue. -/
theorem instructionsNeverIssue : Obligations.InstructionsNeverIssue := by
  intro i s
  cases exec_form i with
  | scan row _ eq => exact ⟨_, eq s, rfl⟩
  | output out eq => exact ⟨_, eq s, rfl⟩
  | chunk bytes eq => exact ⟨_, eq s, feedNext_queue ..⟩
  | roundtrip out run eq => exact ⟨_, eq s, rfl⟩

theorem exec_out (i : Instr) (s : State) (out : Outputs) : exec i (s.withOut out) = exec i s := by
  cases exec_form i with
  | scan row _ eq => rw [eq, eq]; rfl
  | output out eq => rw [eq, eq]; rfl
  | chunk bytes eq => rw [eq, eq, feedChunk, feedNext_out]; rfl
  | roundtrip out run eq => rw [eq, eq]; rfl

theorem exec_ignoresConsumed (i : Instr) (s : State) (n : Nat) :
    ∃ t m, exec i s = .next t ∧ exec i (s.withConsumed n) = .next (t.withConsumed m) := by
  cases exec_form i with
  | scan row ignores eq =>
    obtain ⟨m, hm⟩ := ignores s.scan n
    refine ⟨_, m, eq s, ?_⟩
    have hscan : (s.withConsumed n).scan = s.scan.withConsumed n := rfl
    rw [eq, hscan, hm]
    rfl
  | output out eq => exact ⟨_, n, eq s, eq _⟩
  | chunk bytes eq =>
    obtain ⟨m, hm⟩ := feedNext_ignoresConsumed bytes.length 0 bytes s n
    exact ⟨_, m, eq s, by rw [eq, feedChunk, hm, feedChunk]⟩
  | roundtrip out run eq => exact ⟨_, n, eq s, eq _⟩

theorem resume_out (r : Running) (s : State) (out : Outputs) : resume r (s.withOut out) = resume r s := by
  cases r with
  | feed total used rest => exact feedNext_out ..
  | decode raw e => rfl

theorem resume_ignoresConsumed (r : Running) (s : State) (n : Nat) :
    ∃ m, resume r (s.withConsumed n) = (resume r s).withConsumed m := by
  cases r with
  | feed total used rest => exact feedNext_ignoresConsumed total used rest s n
  | decode raw e => exact ⟨n, rfl⟩

/-! ### The step of the machine -/

section

variable {s : State} {p : Packet} {rest : List Packet}

theorem step_idle (hr : s.running = none) (hq : s.queue = []) : step s = .next (idle s) := by
  simp only [step, hr, takePacket, hq]

theorem step_of_decode {i : Instr} (hr : s.running = none) (hq : s.queue = p :: rest) (hd : decode p = .ok i) :
    step s = exec i { s with queue := rest } := by
  simp only [step, hr, takePacket, hq, hd]

theorem step_of_reject {why : Reject} (hr : s.running = none) (hq : s.queue = p :: rest)
    (hd : decode p = .error why) : step s = .fault (.undefinedPacket why) := by
  simp only [step, hr, takePacket, hq, hd]

end

theorem step_out (s : State) (out : Outputs) : step (s.withOut out) = step s := by
  cases hr : s.running with
  | some r => rw [step_running hr, step_running (s := s.withOut out) hr, resume_out]
  | none =>
    cases hq : s.queue with
    | nil => rw [step_idle hr hq, step_idle (s := s.withOut out) hr hq]; rfl
    | cons p rest =>
      cases hd : decode p with
      | error why => rw [step_of_reject hr hq hd, step_of_reject (s := s.withOut out) hr hq hd]
      | ok i =>
        rw [step_of_decode hr hq hd, step_of_decode (s := s.withOut out) hr hq hd]
        exact exec_out i { s with queue := rest } out

/-- Settles O14: two states that agree but for their outputs are one state with other outputs. -/
theorem outputsCarryNoMemory : Obligations.OutputsCarryNoMemory := by
  intro s t hscan hqueue hrunning
  have hst : s = t.withOut s.out := by
    cases s; cases t; simp_all [State.withOut]
  rw [hst]
  exact ⟨fun i => exec_out i t s.out, step_out t s.out⟩

/-- Settles O33: `SCANB` counts, and no form of meaning reads the count. -/
theorem consumedCountsAndIsNeverRead : Obligations.ConsumedCountsAndIsNeverRead := by
  refine ⟨fun s b => ⟨_, exec_scanb b s, scanStep_consumed b s.scan⟩, exec_ignoresConsumed, fun s n hr => ?_⟩
  obtain ⟨r, hr⟩ := Option.ne_none_iff_exists'.mp hr
  obtain ⟨m, hm⟩ := resume_ignoresConsumed r s n
  exact ⟨_, m, step_running hr, (step_running (s := s.withConsumed n) hr).trans (congrArg _ hm)⟩

/-- Settles O55: the branch of `step` for a packet that decodes. -/
theorem stepRunsDecodedInstruction : Obligations.StepRunsDecodedInstruction := fun _ _ _ _ => step_of_decode

/-- Settles O56: the branches of `step` for an empty port and for a packet that does not decode. -/
theorem stepIdlesOrStopsByName : Obligations.StepIdlesOrStopsByName :=
  ⟨fun _ => step_idle, fun _ _ _ _ => step_of_reject⟩

/-- Settles O13: the four rows are values at the `DEC` port. -/
theorem statusRowsWriteOnlyTheStatus : Obligations.StatusRowsWriteOnlyTheStatus := fun _ =>
  ⟨rfl, rfl, rfl, fun _ => rfl⟩

/-- Settles O16: the three rows are values at the `FEED` port. -/
theorem outcomeRowsReturnTheirOutcome : Obligations.OutcomeRowsReturnTheirOutcome := fun _ =>
  ⟨fun _ => rfl, fun _ _ => rfl, fun _ => rfl⟩

/-- Settles O17: each row writes its phase. -/
theorem phaseRowsWriteOnlyPhase : Obligations.PhaseRowsWriteOnlyPhase := fun _ =>
  ⟨rfl, rfl, rfl, rfl, rfl, rfl, rfl, rfl⟩

/-- Settles O1: the reset values are written out in `ScanState.reset`. -/
theorem resetRegistersAreClear : Obligations.ResetRegistersAreClear := ⟨rfl, rfl, bytes_reset, rfl, rfl, rfl⟩

/-- Settles O15: each of these writes ports alone, and `ROUNDTRIP` also what runs. -/
theorem codecLeavesScannerAlone : Obligations.CodecLeavesScannerAlone := by
  refine ⟨fun i hi s => ?_, fun station function payload s => ?_, fun raw e s hr => ?_⟩
  · rcases hi with ⟨st, f, p, rfl⟩ | ⟨raw, e, rfl⟩ | ⟨r, rfl⟩ | rfl | rfl | rfl | ⟨n, rfl⟩ | ⟨f, n, rfl⟩ | ⟨k, rfl⟩
    case inr.inl => exact ⟨_, exec_dec raw e s, rfl, rfl, rfl, rfl, fun _ => rfl⟩
    all_goals exact ⟨_, rfl, rfl, rfl, rfl, rfl, fun _ => rfl⟩
  · obtain ⟨e, run, -, eq⟩ := exec_roundtrip station function payload
    exact ⟨_, eq s, rfl, rfl, rfl, fun _ => rfl⟩
  · exact ⟨_, step_running hr, rfl, rfl, rfl, rfl, fun _ => rfl⟩

theorem stepInstance_eq_next_iff {k : Nat} {ss tt : Instances} :
    stepInstance k ss = .next tt ↔ ∃ s t, ss[k]? = some s ∧ step s = .next t ∧ tt = ss.set k t := by
  rw [stepInstance]
  cases hs : ss[k]? with
  | none => simp
  | some s =>
    cases ht : step s with
    | next t => simp [ht, eq_comm]
    | fault r => simp [ht]
    | refused r => simp [ht]

/-- Settles O58: a step writes the list at its own index, and reads it there alone. -/
theorem instancesShareNothing : Obligations.InstancesShareNothing := by
  refine ⟨fun k ss tt h => ?_, fun k ss ss' tt hk h => ?_⟩
  · obtain ⟨s, t, hs, ht, rfl⟩ := stepInstance_eq_next_iff.mp h
    have hlt : k < ss.length := (List.getElem?_eq_some_iff.mp hs).1
    exact ⟨List.length_set, fun j hj => List.getElem?_set_ne hj.symm, s, t, hs, List.getElem?_set_self hlt, ht⟩
  · obtain ⟨s, t, hs, ht, rfl⟩ := stepInstance_eq_next_iff.mp h
    have hs' : ss'[k]? = some s := hk ▸ hs
    refine ⟨_, stepInstance_eq_next_iff.mpr ⟨s, t, hs', ht, rfl⟩, ?_⟩
    rw [List.getElem?_set_self (List.getElem?_eq_some_iff.mp hs').1,
      List.getElem?_set_self (List.getElem?_eq_some_iff.mp hs).1]

end Sys2Proof.Machine

end

section

/-! The invariant (10_state.md R25): every scanner step keeps the row of its phase, every step of the machine keeps the whole, and
what the rows say of `PHASE`, `BLEN` and `REM` (10_state.md R32, 20_memory.md R47, 42_scanner.md R143). -/

namespace Sys2Proof.Machine

open Sys2Proof.Config

/-! ### The scanner's steps -/

theorem ScanState.Inv.bufOk {c : ScanState} (h : c.Inv) : c.BufOk := ⟨h.canonical, h.belowBlen⟩

theorem ScanState.Inv.of_bufOk {c : ScanState} (h : c.BufOk) (row : PhaseRow c.phase c.bytes c.rem) : c.Inv :=
  ⟨h.1, h.2, row⟩

theorem ScanState.Inv.row_of {c : ScanState} (h : c.Inv) {p : Phase} (hp : c.phase = p) : PhaseRow p c.bytes c.rem :=
  hp ▸ h.row

/-- A region that de-stuffs, followed by a byte that is not `STUFF`, holds one logical byte more. -/
theorem unstuff_concat_of_ne {region p : List Byte} {b : Byte} (h : unstuff region = some p) (hb : b ≠ STUFF) :
    unstuff (region ++ [b]) = some (p ++ [b]) := by
  rw [unstuff_append h, unstuff_cons_of_ne hb]
  rfl

/-- The same of a pair. -/
theorem unstuff_append_pair {region p : List Byte} (h : unstuff region = some p) :
    unstuff (region ++ [STUFF, STUFF]) = some (p ++ [STUFF]) := by
  rw [unstuff_append h, unstuff_pair]
  rfl

theorem decrement_eq_zero_iff {r : Byte} (h : r ≠ 0#8) : decrement r = 0#8 ↔ r = 1#8 := by
  rw [decrement_pos h]
  constructor <;> intro h <;> bv_omega

/-- When the logical byte now complete is counted, LENGTH is again one more than the bytes counted and those left (R25). -/
theorem inv_takeLogical {c : ScanState} {station length function : Byte} {region p : List Byte} (hbuf : c.BufOk)
    (hbytes : c.bytes = frameHead station length function region) (hu : unstuff region = some p)
    (hrem : c.rem ≠ 0#8) (hl : length.toNat = p.length + c.rem.toNat) : c.takeLogical.Inv := by
  have hdec := decrement_toNat hrem
  have hpos : 0 < c.rem.toNat := Nat.pos_of_ne_zero fun h => hrem (BitVec.eq_of_toNat_eq h)
  refine .of_bufOk hbuf ?_
  rw [takeLogical_phase, takeLogical_bytes, takeLogical_rem]
  split_ifs with hz
  · rw [hz] at hdec
    have : (0#8).toNat = 0 := rfl
    exact ⟨hz, .inr ⟨station, length, function, region, p, hbytes, hu, by omega⟩⟩
  · exact ⟨station, length, function, region, p, hbytes, hu, hz, by omega⟩

/-- R25: every `SCANB` step keeps the scanner's invariant. -/
theorem inv_scanStep {c : ScanState} (h : c.Inv) (b : Byte) : (scanStep b c).1.Inv := by
  have happend (b : Byte) : (c.count.bufAppend b).BufOk := bufOk_bufAppend (c := c.count) h.bufOk b
  rcases scanStep_cases b c with ⟨hp, -, e⟩ | ⟨hp, -, e⟩ | ⟨hp, -, e⟩ | ⟨hp, -, e⟩ | ⟨hp, -, -, e⟩ | ⟨hp, e⟩ |
    ⟨hp, e⟩ | ⟨hp, e⟩ | ⟨hp, rfl, e⟩ | ⟨hp, hb, e⟩ | ⟨hp, rfl, e⟩ | ⟨-, e⟩ <;> rw [e]
  · obtain ⟨hbytes, hrem⟩ := h.row_of hp
    exact .of_bufOk (happend MARK0) (by simp [PhaseRow, hbytes, hrem])
  · exact .of_bufOk h.bufOk (h.row_of hp)
  · obtain ⟨hbytes, hrem⟩ := h.row_of hp
    exact .of_bufOk (happend MARK1) (by simp [PhaseRow, hbytes, hrem])
  · exact .of_bufOk h.bufOk (h.row_of hp)
  · obtain ⟨-, hrem⟩ := h.row_of hp
    exact .of_bufOk (bufOk_of_nil rfl) ⟨rfl, hrem⟩
  · obtain ⟨hbytes, hrem⟩ := h.row_of hp
    exact .of_bufOk (happend b) (by simp [PhaseRow, hbytes, hrem])
  · obtain ⟨⟨station, hbytes⟩, -⟩ := h.row_of hp
    refine .of_bufOk (happend b) ?_
    by_cases hb : b = 0#8 <;> simp [PhaseRow, hbytes, hb]
  · obtain ⟨⟨station, hbytes⟩, hrem⟩ := h.row_of hp
    exact inv_takeLogical (station := station) (length := c.rem) (function := b) (happend b)
      (by simp [frameHead, hbytes]) unstuff_nil hrem (by simp)
  · obtain ⟨station, length, function, region, p, hbytes, hu, hrem, hl⟩ := h.row_of hp
    exact .of_bufOk (happend STUFF) ⟨station, length, function, region, p, by simp [hbytes], hu, hrem, hl⟩
  · obtain ⟨station, length, function, region, p, hbytes, hu, hrem, hl⟩ := h.row_of hp
    exact inv_takeLogical (station := station) (length := length) (function := function) (happend b)
      (by simp [hbytes, frameHead]) (unstuff_concat_of_ne hu hb) hrem (by simp [hl]; omega)
  · obtain ⟨station, length, function, region, p, hbytes, hu, hrem, hl⟩ := h.row_of hp
    exact inv_takeLogical (station := station) (length := length) (function := function) (happend STUFF)
      (by simp [hbytes, frameHead]) (unstuff_append_pair hu) hrem (by simp [hl]; omega)
  · exact .of_bufOk (bufOk_of_nil rfl) ⟨rfl, rfl⟩

theorem inv_reset : ScanState.reset.Inv := .of_bufOk (bufOk_of_nil rfl) ⟨rfl, rfl⟩

/-! ### `PHASE` by the table -/

theorem rem_ne_zero_of_bodyFn {c : ScanState} (h : c.Inv) (hp : c.phase = .bodyFn) : c.rem ≠ 0#8 := (h.row_of hp).2

theorem rem_ne_zero_of_body {c : ScanState} (h : c.Inv) (hp : c.phase = .body) : c.rem ≠ 0#8 := by
  obtain ⟨_, _, _, _, _, -, -, hrem, -⟩ := h.row_of hp
  exact hrem

theorem rem_ne_zero_of_bodyEsc {c : ScanState} (h : c.Inv) (hp : c.phase = .bodyEsc) : c.rem ≠ 0#8 := by
  obtain ⟨_, _, _, _, _, -, -, hrem, -⟩ := h.row_of hp
  exact hrem

theorem takeLogical_phase_of_ne_zero {c : ScanState} (h : c.rem ≠ 0#8) (b : Byte) :
    (c.count.bufAppend b).takeLogical.phase = if c.rem = 1#8 then .cksum else .body := by
  simp only [takeLogical_phase, bufAppend_rem, count_rem, decrement_eq_zero_iff h]

/-- The classes, by what the byte is. -/
theorem byteClass_cases (b : Byte) :
    (b = MARK0 ∧ byteClass b = .isMark0) ∨ (b = MARK1 ∧ byteClass b = .isMark1) ∨
      (b ≠ MARK0 ∧ b ≠ MARK1 ∧ byteClass b = .other) := by
  by_cases h0 : b = MARK0
  · exact .inl ⟨h0, if_pos h0⟩
  by_cases h1 : b = MARK1
  · exact .inr (.inl ⟨h1, by rw [byteClass, if_neg h0, if_pos h1]⟩)
  · exact .inr (.inr ⟨h0, h1, by rw [byteClass, if_neg h0, if_neg h1]⟩)

theorem byteClass_ne_isMark0 {b : Byte} (h : b ≠ MARK0) : byteClass b = .isMark1 ∨ byteClass b = .other := by
  rcases byteClass_cases b with ⟨h0, -⟩ | ⟨-, h1⟩ | ⟨-, -, h2⟩
  · exact absurd h0 h
  · exact .inl h1
  · exact .inr h2

/-- R143. -/
theorem phase_scanStep {c : ScanState} (h : c.Inv) (b : Byte) :
    (scanStep b c).1.phase = transition c.phase (byteClass b) b c.rem := by
  rcases scanStep_cases b c with ⟨hp, rfl, e⟩ | ⟨hp, hb, e⟩ | ⟨hp, rfl, e⟩ | ⟨hp, rfl, e⟩ | ⟨hp, h1, h0, e⟩ | ⟨hp, e⟩ |
    ⟨hp, e⟩ | ⟨hp, e⟩ | ⟨hp, rfl, e⟩ | ⟨hp, hb, e⟩ | ⟨hp, rfl, e⟩ | ⟨⟨hp, hb⟩ | hp, e⟩ <;> rw [e, hp]
  · rfl
  · rcases byteClass_ne_isMark0 hb with hc | hc <;> rw [hc] <;> rfl
  · rfl
  · rfl
  · rcases byteClass_cases b with ⟨hb, -⟩ | ⟨hb, -⟩ | ⟨-, -, hc⟩
    · exact absurd hb h0
    · exact absurd hb h1
    · rw [hc]; rfl
  · rfl
  · rcases byteClass_cases b with ⟨rfl, hc⟩ | ⟨rfl, hc⟩ | ⟨-, -, hc⟩ <;> rw [hc] <;> rfl
  · exact takeLogical_phase_of_ne_zero (rem_ne_zero_of_bodyFn h hp) b
  · rfl
  · have hphase := takeLogical_phase_of_ne_zero (rem_ne_zero_of_body h hp) b
    rcases byteClass_ne_isMark0 hb with hc | hc <;> rw [hc] <;> exact hphase
  · exact takeLogical_phase_of_ne_zero (rem_ne_zero_of_bodyEsc h hp) STUFF
  · rcases byteClass_ne_isMark0 hb with hc | hc <;> rw [hc] <;> rfl
  · rfl

/-- Settles O31: R143, row by row. -/
theorem scanbFollowsTransitionTable : Obligations.ScanbFollowsTransitionTable := fun s b h =>
  ⟨_, exec_scanb b s, phase_scanStep h.scan b⟩

/-! ### The machine's steps -/

/-- Settles O47: the reset scanner seeks with nothing held; nothing is issued and nothing runs. -/
theorem resetSatisfiesInvariant : Obligations.ResetSatisfiesInvariant := ⟨inv_reset, nofun, nofun⟩

theorem inv_afterScan {s : State} (h : s.Inv) {r : ScanState × Event} (hr : r.1.Inv) : (s.afterScan r).Inv :=
  ⟨hr, h.running, h.issued⟩

section

variable {s : State} (hscan : s.scan.Inv) (hissued : ∀ p ∈ s.queue, issuable p = true)
include hscan hissued

/-- A turn of `FEED` keeps the invariant whatever ran before it. -/
theorem inv_feedNext {total used : Nat} {bytes : List Byte} (hlen : used + bytes.length = total) :
    (feedNext total used bytes s).Inv := by
  cases bytes with
  | nil =>
    rw [feedNext_nil_eq]
    exact ⟨hscan, nofun, hissued⟩
  | cons b rest =>
    have hnext := inv_scanStep hscan b
    rcases scanStep_deliver_or_quiet b s.scan with ⟨f, hf⟩ | ⟨d, hd⟩
    · rw [feedNext_of_deliver hf]
      exact ⟨hnext, nofun, hissued⟩
    · rw [hd] at hnext
      rcases eq_or_ne rest [] with rfl | hr
      · rw [feedNext_of_quiet_last hd]
        exact ⟨hnext, nofun, hissued⟩
      · rw [feedNext_of_quiet hd hr]
        refine ⟨hnext, ?_, hissued⟩
        rintro _ ⟨⟩
        exact ⟨hr, by simp only [List.length_cons] at hlen; omega⟩

theorem inv_feedChunk (chunk : List Byte) : (feedChunk chunk s).Inv := inv_feedNext hscan hissued (Nat.zero_add _)

end

theorem inv_resume {s : State} (h : s.Inv) {r : Running} (hr : s.running = some r) : (resume r s).Inv := by
  cases r with
  | feed total used rest => exact inv_feedNext h.scan h.issued (h.running _ hr).2
  | decode raw e => exact ⟨h.scan, nofun, h.issued⟩

/-- Of the operations and wire units, only `SCANB`, `SCANR` and those that feed bytes write the scanner. -/
theorem inv_exec {i : Instr} {s t : State} (hi : Format.issuable (encode i).format = true) (h : s.Inv)
    (ht : exec i s = .next t) : t.Inv := by
  cases i with
  | frame st l f region c => cases ht; exact inv_feedChunk h.scan h.issued _
  | mark => cases ht; exact inv_feedChunk h.scan h.issued _
  | stuffPair => cases ht; exact inv_feedChunk h.scan h.issued _
  | enc st f p => cases ht; exact ⟨h.scan, h.running, h.issued⟩
  | dec raw e =>
    rw [exec_dec] at ht
    cases ht
    exact ⟨h.scan, h.running, h.issued⟩
  | scanb b => cases ht; exact inv_afterScan h (inv_scanStep h.scan b)
  | scanr => cases ht; exact inv_afterScan h inv_reset
  | feed chunk => cases ht; exact inv_feedChunk h.scan h.issued _
  | roundtrip st f p =>
    obtain ⟨e, run, hrun, eq⟩ := exec_roundtrip st f p
    rw [eq] at ht
    cases ht
    exact ⟨h.scan, hrun, h.issued⟩
  | _ => exact absurd hi Bool.false_ne_true

/-- The invariant lets no packet at the port fail to decode. -/
theorem exists_decode_of_issuable {p : Packet} (h : issuable p = true) :
    ∃ i, decode p = .ok i ∧ Format.issuable (encode i).format = true := by
  obtain ⟨hformat, hdecode⟩ := Bool.and_eq_true_iff.mp h
  cases hd : decode p with
  | error why => rw [hd] at hdecode; cases hdecode
  | ok i => exact ⟨i, rfl, (encodeInvertsDecode p i hd).symm ▸ hformat⟩

/-- From the invariant a step answers a next state, again in the invariant (R25, R32). -/
theorem exists_step_inv {s : State} (h : s.Inv) : ∃ t, step s = .next t ∧ t.Inv := by
  cases hr : s.running with
  | some r => exact ⟨_, step_running hr, inv_resume h hr⟩
  | none =>
    cases hq : s.queue with
    | nil => exact ⟨_, step_idle hr hq, h.scan, h.running, h.issued⟩
    | cons p rest =>
      have hissued : ∀ q ∈ p :: rest, issuable q = true := hq ▸ h.issued
      obtain ⟨i, hd, hi⟩ := exists_decode_of_issuable (hissued p List.mem_cons_self)
      obtain ⟨t, ht, -⟩ := instructionsNeverIssue i { s with queue := rest }
      have hinv : State.Inv { s with queue := rest } :=
        ⟨h.scan, h.running, fun q hq => hissued q (List.mem_cons_of_mem p hq)⟩
      exact ⟨t, (step_of_decode hr hq hd).trans ht, inv_exec hi hinv ht⟩

/-- Settles O48: the next state is the one that `exists_step_inv` names. -/
theorem stepKeepsInvariant : Obligations.StepKeepsInvariant := by
  intro s t h ht
  obtain ⟨u, hu, hinv⟩ := exists_step_inv h
  rw [ht] at hu
  cases hu
  exact hinv

theorem core_run_succ {s t : State} (h : step s = .next t) (n : Nat) :
    Sys2Proof.core.run (n + 1) s = Sys2Proof.core.run n t := by
  have hcore : Sys2Proof.core.step s = .next t := h
  simp only [Host.Core.run, hcore]

/-- Settles O49: by induction on the number of steps. -/
theorem invariantRunsNeverStop : Obligations.InvariantRunsNeverStop := by
  intro s n
  induction n generalizing s with
  | zero => exact fun _ => ⟨s, rfl⟩
  | succ n ih =>
    intro h
    obtain ⟨t, ht, hinv⟩ := exists_step_inv h
    obtain ⟨u, hu⟩ := ih t hinv
    exact ⟨u, (core_run_succ ht n).trans hu⟩

/-! ### The bounds -/

theorem length_le_of_unstuff {region p : List Byte} (h : unstuff region = some p) : region.length ≤ 2 * p.length :=
  eq_stuff_of_unstuff h ▸ length_stuff_le p

section

variable {c : ScanState} (h : c.Inv)
include h

theorem bounds_of_bodyFn (hp : c.phase = .bodyFn) : c.blen = 4 ∧ c.rem = byteAt c.bytes 3 ∧ 1 ≤ c.rem.toNat := by
  obtain ⟨⟨station, hbytes⟩, hrem⟩ := h.row_of hp
  refine ⟨by rw [← bytes_length, hbytes]; rfl, by rw [hbytes]; rfl, Nat.pos_of_ne_zero fun hz => hrem ?_⟩
  exact BitVec.eq_of_toNat_eq hz

/-- In the region: LENGTH is the byte at index 3, and stuffing at most doubles what has been counted. -/
theorem bounds_of_body (hp : c.phase = .body) :
    5 ≤ c.blen ∧ 1 ≤ c.rem.toNat ∧ c.rem.toNat + 1 ≤ (byteAt c.bytes 3).toNat ∧
      c.blen ≤ 5 + 2 * ((byteAt c.bytes 3).toNat - 1 - c.rem.toNat) := by
  obtain ⟨station, length, function, region, p, hbytes, hu, hrem, hl⟩ := h.row_of hp
  have hlen := length_le_of_unstuff hu
  have hpos : c.rem.toNat ≠ 0 := fun hz => hrem (BitVec.eq_of_toNat_eq hz)
  rw [← bytes_length, hbytes, byteAt_three_frameHead, length_frameHead]
  omega

/-- The same with one byte pending. -/
theorem bounds_of_bodyEsc (hp : c.phase = .bodyEsc) :
    6 ≤ c.blen ∧ 1 ≤ c.rem.toNat ∧ c.rem.toNat + 1 ≤ (byteAt c.bytes 3).toNat ∧
      c.blen ≤ 6 + 2 * ((byteAt c.bytes 3).toNat - 1 - c.rem.toNat) := by
  obtain ⟨station, length, function, region, p, hbytes, hu, hrem, hl⟩ := h.row_of hp
  have hlen := length_le_of_unstuff hu
  have hpos : c.rem.toNat ≠ 0 := fun hz => hrem (BitVec.eq_of_toNat_eq hz)
  have hbyte : byteAt c.bytes 3 = length := by rw [hbytes]; rfl
  rw [← bytes_length, hbyte, hbytes, List.length_append, length_frameHead, List.length_singleton]
  omega

/-- After the region, or after a LENGTH of 0, where the bound holds with room to spare. -/
theorem bounds_of_cksum (hp : c.phase = .cksum) :
    4 ≤ c.blen ∧ c.rem = 0 ∧ c.blen ≤ 5 + 2 * ((byteAt c.bytes 3).toNat - 1) := by
  obtain ⟨hrem, ⟨station, hbytes⟩ | ⟨station, length, function, region, p, hbytes, hu, hl⟩⟩ := h.row_of hp
  · have hblen : c.blen = 4 := by rw [← bytes_length, hbytes]; rfl
    exact ⟨hblen.ge, hrem, by omega⟩
  · have hlen := length_le_of_unstuff hu
    rw [← bytes_length, hbytes, byteAt_three_frameHead, length_frameHead]
    exact ⟨by omega, hrem, by omega⟩

theorem blen_of_seek0 (hp : c.phase = .seek0) : c.blen = 0 ∧ c.rem = 0 := by
  obtain ⟨hbytes, hrem⟩ := h.row_of hp
  exact ⟨by rw [← bytes_length, hbytes]; rfl, hrem⟩

theorem blen_of_seek1 (hp : c.phase = .seek1) : c.blen = 1 ∧ c.rem = 0 := by
  obtain ⟨hbytes, hrem⟩ := h.row_of hp
  exact ⟨by rw [← bytes_length, hbytes]; rfl, hrem⟩

theorem blen_of_hdrStation (hp : c.phase = .hdrStation) : c.blen = 2 ∧ c.rem = 0 := by
  obtain ⟨hbytes, hrem⟩ := h.row_of hp
  exact ⟨by rw [← bytes_length, hbytes]; rfl, hrem⟩

theorem blen_of_hdrLen (hp : c.phase = .hdrLen) : c.blen = 3 ∧ c.rem = 0 := by
  obtain ⟨⟨station, hbytes⟩, hrem⟩ := h.row_of hp
  exact ⟨by rw [← bytes_length, hbytes]; rfl, hrem⟩

theorem blen_lt_cap : c.blen < BUF_CAP := by
  have hlength := (byteAt c.bytes 3).isLt
  rw [BUF_CAP]
  cases hp : c.phase with
  | seek0 => have := blen_of_seek0 h hp; omega
  | seek1 => have := blen_of_seek1 h hp; omega
  | hdrStation => have := blen_of_hdrStation h hp; omega
  | hdrLen => have := blen_of_hdrLen h hp; omega
  | bodyFn => have := bounds_of_bodyFn h hp; omega
  | body => have := bounds_of_body h hp; omega
  | bodyEsc => have := bounds_of_bodyEsc h hp; omega
  | cksum => have := bounds_of_cksum h hp; omega

end

/-- Settles O50: the bounds of each phase; LENGTH is at most 255. -/
theorem bufferNeverOverflows : Obligations.BufferNeverOverflows := by
  intro s hinv
  have h := hinv.scan
  have hlength := (byteAt s.scan.bytes 3).isLt
  refine ⟨blen_lt_cap h, blen_of_seek0 h, blen_of_seek1 h, blen_of_hdrStation h, blen_of_hdrLen h,
    bounds_of_bodyFn h, fun hp => ?_, fun hp => ?_, fun hp => ?_, fun hp => ?_, fun hp _ => ?_⟩
  · have := bounds_of_body h hp
    rw [BUF_CAP]
    omega
  · have := bounds_of_bodyEsc h hp
    rw [BUF_CAP]
    omega
  · obtain ⟨hblen, hrem, -⟩ := bounds_of_cksum h hp
    exact ⟨hblen, hrem⟩
  · rcases hp with hp | hp
    · obtain ⟨-, hpos, hle, -⟩ := bounds_of_body h hp
      exact ⟨hpos, hle⟩
    · obtain ⟨-, hpos, hle, -⟩ := bounds_of_bodyEsc h hp
      exact ⟨hpos, hle⟩
  · rcases hp with hp | hp | hp
    · obtain ⟨-, -, -, hle⟩ := bounds_of_body h hp
      simpa [hp] using hle
    · obtain ⟨-, -, -, hle⟩ := bounds_of_bodyEsc h hp
      simp only [hp, if_true]
      omega
    · obtain ⟨-, hrem, hle⟩ := bounds_of_cksum h hp
      simpa [hp, hrem] using hle

end Sys2Proof.Machine

end

section

/-! Streams and chunks (42_scanner.md R144 to R148): the scanner over a byte sequence as a function of its registers, and the two ways
in which a chunk ends. -/

namespace Sys2Proof.Machine

open Sys2Proof.Config

/-! ### The scanner over a byte sequence -/

/-- The registers after a byte sequence, and the frames it delivers in order. -/
def scanBytes : List Byte → ScanState → ScanState × List (List Byte)
  | [], c => (c, [])
  | b :: rest, c =>
    ((scanBytes rest (scanStep b c).1).1, (scanStep b c).2.frames ++ (scanBytes rest (scanStep b c).1).2)

theorem scanBytes_cons (b : Byte) (rest : List Byte) (c : ScanState) : scanBytes (b :: rest) c =
    ((scanBytes rest (scanStep b c).1).1, (scanStep b c).2.frames ++ (scanBytes rest (scanStep b c).1).2) := rfl

theorem scanBytes_cons_of_quiet {b : Byte} {c d : ScanState} (h : scanStep b c = quiet d) (rest : List Byte) :
    scanBytes (b :: rest) c = scanBytes rest d := by
  rw [scanBytes_cons, h]
  rfl

theorem scanBytes_append (xs ys : List Byte) (c : ScanState) : scanBytes (xs ++ ys) c =
    ((scanBytes ys (scanBytes xs c).1).1, (scanBytes xs c).2 ++ (scanBytes ys (scanBytes xs c).1).2) := by
  induction xs generalizing c with
  | nil => rfl
  | cons b xs ih => simp only [List.cons_append, scanBytes_cons, ih, List.append_assoc]

theorem scanBytes_append_of_quiet {xs : List Byte} {c d : ScanState} (h : scanBytes xs c = (d, [])) (ys : List Byte) :
    scanBytes (xs ++ ys) c = scanBytes ys d := by
  rw [scanBytes_append, h]
  rfl

theorem scanBytes_of_first {before : List Byte} {b : Byte} {c d : ScanState} {f : List Byte}
    (h : scanBytes before c = (d, [])) (hf : (scanStep b d).2 = .frameReady f) (rest : List Byte) :
    scanBytes (before ++ b :: rest) c =
      ((scanBytes rest (scanStep b d).1).1, f :: (scanBytes rest (scanStep b d).1).2) := by
  rw [scanBytes_append_of_quiet h, scanBytes_cons, hf]
  rfl

/-- `SCANB` one after another is the scanner over the sequence; only registers and ports change. -/
theorem scanStream_eq (bs : List Byte) (s : State) : ∃ t,
    scanStream bs s = some (t, (scanBytes bs s.scan).2) ∧ t.scan = (scanBytes bs s.scan).1 := by
  induction bs generalizing s with
  | nil => exact ⟨s, rfl, rfl⟩
  | cons b bs ih =>
    obtain ⟨t, ht, hscan⟩ := ih (s.afterScan (scanStep b s.scan))
    exact ⟨t, by rw [scanStream_cons, ht]; rfl, hscan⟩

theorem scanBytes_consumed (bs : List Byte) (c : ScanState) :
    (scanBytes bs c).1.consumed = c.consumed + bs.length := by
  induction bs generalizing c with
  | nil => rfl
  | cons b bs ih =>
    rw [scanBytes_cons, ih, scanStep_consumed, List.length_cons]
    omega

theorem inv_scanBytes {c : ScanState} (h : c.Inv) (bs : List Byte) : (scanBytes bs c).1.Inv := by
  induction bs generalizing c with
  | nil => exact h
  | cons b bs ih => exact ih (inv_scanStep h b)

/-- Over any sequence either no frame is delivered, or there is a first byte that delivers one. -/
theorem scanBytes_quiet_or_first (bs : List Byte) (c : ScanState) :
    (∃ d, scanBytes bs c = (d, [])) ∨ ∃ before b rest d f,
      bs = before ++ b :: rest ∧ scanBytes before c = (d, []) ∧ (scanStep b d).2 = .frameReady f := by
  induction bs generalizing c with
  | nil => exact .inl ⟨c, rfl⟩
  | cons b bs ih =>
    rcases scanStep_deliver_or_quiet b c with ⟨f, hf⟩ | ⟨d, hd⟩
    · exact .inr ⟨[], b, bs, c, f, rfl, rfl, hf⟩
    · rcases ih d with ⟨e, he⟩ | ⟨before, b', rest, e, f, rfl, he, hf⟩
      · exact .inl ⟨e, by rw [scanBytes_cons_of_quiet hd, he]⟩
      · exact .inr ⟨b :: before, b', rest, e, f, rfl, by rw [scanBytes_cons_of_quiet hd, he], hf⟩

/-! ### A chunk with all its steps -/

theorem complete_goOn {s : State} {r : Running} {fuel : Nat} {q : State × List (List Byte)} {c : ScanState}
    (h : complete fuel (resume r ((s.afterScan (quiet c)).goOn r)) = some q) :
    complete (fuel + 1) ((s.afterScan (quiet c)).goOn r) = some q := by
  rw [complete_running rfl, h]
  rfl

/-- A chunk without a frame ends after its last byte. -/
theorem complete_feedNext_of_quiet {bytes : List Byte} {s : State} {d : ScanState} {fuel total used : Nat}
    (h : scanBytes bytes s.scan = (d, [])) (hfuel : bytes.length ≤ fuel + 1) :
    complete fuel (feedNext total used bytes s) =
      some (s.chunkEnd d .none (chunkOutcome total d.phase) (used + bytes.length), []) := by
  induction bytes generalizing s fuel used with
  | nil =>
    cases h
    rw [feedNext_nil_eq, complete_done rfl]
    rfl
  | cons b rest ih =>
    rcases scanStep_deliver_or_quiet b s.scan with ⟨f, hf⟩ | ⟨c, hc⟩
    · rw [scanBytes_cons, hf] at h
      cases h
    · rw [scanBytes_cons_of_quiet hc] at h
      rcases eq_or_ne rest [] with rfl | hr
      · cases h
        rw [feedNext_of_quiet_last hc, complete_done rfl]
        rfl
      · have := List.length_pos_of_ne_nil hr
        rw [List.length_cons] at hfuel ⊢
        obtain ⟨fuel, rfl⟩ : ∃ n, fuel = n + 1 := ⟨fuel - 1, by omega⟩
        rw [feedNext_of_quiet hc hr]
        refine complete_goOn ?_
        rw [resume, ih h (by omega), Nat.add_right_comm, Nat.add_assoc]
        rfl

/-- A chunk with a frame ends with the byte that completes it. -/
theorem complete_feedNext_of_deliver {before rest : List Byte} {b : Byte} {s : State} {d : ScanState} {f : List Byte}
    {fuel total used : Nat} (h : scanBytes before s.scan = (d, [])) (hf : (scanStep b d).2 = .frameReady f)
    (hfuel : before.length ≤ fuel) :
    complete fuel (feedNext total used (before ++ b :: rest) s) =
      some (s.chunkEnd (scanStep b d).1 (.frameReady f) (.frameReady f) (used + before.length + 1), [f]) := by
  induction before generalizing s fuel used with
  | nil =>
    cases h
    rw [List.nil_append, feedNext_of_deliver hf, complete_done rfl]
    rfl
  | cons a before ih =>
    rcases scanStep_deliver_or_quiet a s.scan with ⟨g, hg⟩ | ⟨c, hc⟩
    · rw [scanBytes_cons, hg] at h
      cases h
    · rw [scanBytes_cons_of_quiet hc] at h
      rw [List.length_cons] at hfuel ⊢
      obtain ⟨fuel, rfl⟩ : ∃ n, fuel = n + 1 := ⟨fuel - 1, by omega⟩
      rw [List.cons_append, feedNext_of_quiet hc (by simp)]
      refine complete_goOn ?_
      rw [resume, ih h (by omega), Nat.add_right_comm used]
      rfl

/-- `FEED` with all its steps: the first by `exec`, at most one more for each further byte. -/
theorem runWhole_feed (chunk : List Byte) (s : State) :
    runWhole (.feed chunk) s = complete (chunk.length - 1) (feedChunk chunk s) := by
  have hrun : runWhole (.feed chunk) s = complete (feedChunk chunk s).stepsLeft (feedChunk chunk s) := rfl
  rw [hrun, feedChunk]
  cases chunk with
  | nil => rw [feedNext_nil_eq, complete_done rfl, complete_done rfl]
  | cons b rest =>
    rcases scanStep_deliver_or_quiet b s.scan with ⟨f, hf⟩ | ⟨c, hc⟩
    · rw [feedNext_of_deliver hf, complete_done rfl, complete_done rfl]
    · rcases eq_or_ne rest [] with rfl | hr
      · rw [feedNext_of_quiet_last hc, complete_done rfl, complete_done rfl]
      · rw [feedNext_of_quiet hc hr, State.stepsLeft, goOn_running, List.length_cons, Nat.add_sub_cancel]
        exact congrArg (complete · _) (max_eq_right (List.length_pos_of_ne_nil hr))

theorem runWhole_feed_of_quiet {chunk : List Byte} {s : State} {d : ScanState}
    (h : scanBytes chunk s.scan = (d, [])) : runWhole (.feed chunk) s =
      some (s.chunkEnd d .none (chunkOutcome chunk.length d.phase) chunk.length, []) := by
  rw [runWhole_feed, feedChunk, complete_feedNext_of_quiet h (by omega), Nat.zero_add]

theorem runWhole_feed_of_deliver {before rest : List Byte} {b : Byte} {s : State} {d : ScanState} {f : List Byte}
    (h : scanBytes before s.scan = (d, [])) (hf : (scanStep b d).2 = .frameReady f) :
    runWhole (.feed (before ++ b :: rest)) s =
      some (s.chunkEnd (scanStep b d).1 (.frameReady f) (.frameReady f) (before.length + 1), [f]) := by
  rw [runWhole_feed, feedChunk, complete_feedNext_of_deliver h hf, Nat.zero_add]
  simp only [List.length_append, List.length_cons]
  omega

theorem chunkOutcome_garbage {total : Nat} {p : Phase} (ht : total > 0) (hp : p = .seek0) :
    chunkOutcome total p = .garbage total := if_pos ⟨ht, hp⟩

theorem chunkOutcome_needMoreData {total : Nat} {p : Phase} (h : ¬ (total > 0 ∧ p = .seek0)) :
    chunkOutcome total p = .needMoreData := if_neg h

/-! ### The statements -/

/-- Settles O36: the step of an empty chunk. -/
theorem emptyChunkChangesNothing : Obligations.EmptyChunkChangesNothing := fun s =>
  congrArg Host.Outcome.next (feedNext_nil_eq 0 0 s)

/-- Settles O39: the three rows are the first step of the same chunk. -/
theorem wireUnitsArriveAsOneChunk : Obligations.WireUnitsArriveAsOneChunk := fun _ =>
  ⟨fun _ _ _ _ _ => ⟨_, rfl, rfl⟩, ⟨_, rfl, rfl⟩, ⟨_, rfl, rfl⟩⟩

/-- Settles O34: a turn delivers, or is the last, or goes on. -/
theorem feedIsOneScanbPerStep : Obligations.FeedIsOneScanbPerStep := by
  intro s total used b rest
  have hstep (h : s.running = some (.feed total used (b :: rest))) :
      step s = .next (feedNext total used (b :: rest) s) := step_running h
  have hexec (ht : total = (b :: rest).length) (hu : used = 0) :
      exec (.feed (b :: rest)) s = .next (feedNext total used (b :: rest) s) := by rw [ht, hu]; rfl
  refine ⟨feedNext total used (b :: rest) s, _, exec_scanb b s, ?_⟩
  simp only [afterScan_scan, afterScan_event]
  rcases scanStep_deliver_or_quiet b s.scan with ⟨f, hf⟩ | ⟨c, hc⟩
  · rw [feedNext_of_deliver hf] at hstep hexec ⊢
    rw [hf]
    refine ⟨rfl, rfl, rfl, rfl, rfl, hstep, hexec, ?_, nofun, nofun⟩
    rintro _ ⟨⟩
    exact ⟨rfl, rfl⟩
  · rw [hc, quiet_fst, quiet_snd]
    rcases eq_or_ne rest [] with rfl | hr
    · rw [feedNext_of_quiet_last hc] at hstep hexec ⊢
      exact ⟨rfl, rfl, rfl, rfl, rfl, hstep, hexec, nofun, fun _ h => absurd rfl h, fun _ _ =>
        ⟨rfl, fun h => by rw [chunkEnd_feed, chunkOutcome_garbage h.1 h.2],
          fun h => by rw [chunkEnd_feed, chunkOutcome_needMoreData h]⟩⟩
    · rw [feedNext_of_quiet hc hr] at hstep hexec ⊢
      exact ⟨rfl, rfl, rfl, rfl, rfl, hstep, hexec, nofun, fun _ _ => ⟨rfl, rfl⟩, fun _ h => absurd h hr⟩

/-- Settles O35: the two ends of a chunk. -/
theorem feedStopsAtFirstFrame : Obligations.FeedStopsAtFirstFrame := by
  intro chunk s
  rcases scanBytes_quiet_or_first chunk s.scan with ⟨d, hd⟩ | ⟨before, b, rest, d, f, rfl, hd, hf⟩
  · refine ⟨_, _, runWhole_feed_of_quiet hd, rfl, rfl, rfl, rfl, .inr ?_⟩
    obtain ⟨u, hu, hscan⟩ := scanStream_eq chunk s
    rw [hd] at hu hscan
    refine ⟨u, hu, hscan.symm, rfl, rfl, fun h => ?_, fun h => ?_⟩ <;> rw [hscan] at h
    · rw [chunkEnd_feed, chunkOutcome_garbage (List.length_pos_of_ne_nil h.1) h.2]
    · rw [chunkEnd_feed, chunkOutcome_needMoreData]
      rintro ⟨hpos, hp⟩
      rcases h with rfl | h
      · exact Nat.lt_irrefl 0 hpos
      · exact h hp
  · refine ⟨_, _, runWhole_feed_of_deliver hd hf, rfl, rfl, rfl, rfl, .inl ?_⟩
    obtain ⟨u, hu, hscan⟩ := scanStream_eq before s
    rw [hd] at hu hscan
    refine ⟨before, rest, f, b, u, _, rfl, hu, exec_scanb b u, ?_⟩
    rw [hscan]
    exact ⟨hf, rfl, rfl, rfl, rfl⟩

/-- Settles O37: the two ends of a chunk, in the invariant: a scanner in `SEEK0` holds nothing. -/
theorem feedOutcomesMeanWhatTheySay : Obligations.FeedOutcomesMeanWhatTheySay := by
  intro chunk s hinv
  rcases scanBytes_quiet_or_first chunk s.scan with ⟨d, hd⟩ | ⟨before, b, rest, d, f, rfl, hd, hf⟩
  · have hd1 : (scanBytes chunk s.scan).1 = d := by rw [hd]
    have hcons := scanBytes_consumed chunk s.scan
    have hdinv := inv_scanBytes hinv.scan chunk
    rw [hd1] at hcons hdinv
    refine ⟨_, _, _, _, runWhole_feed_of_quiet hd, rfl, le_rfl, hcons, ?_⟩
    by_cases h : chunk.length > 0 ∧ d.phase = .seek0
    · rw [chunkOutcome_garbage h.1 h.2]
      refine ⟨nofun, ?_, nofun⟩
      rintro _ ⟨⟩
      exact ⟨rfl, rfl, h.1, h.2, (hdinv.row_of h.2).1, rfl⟩
    · rw [chunkOutcome_needMoreData h]
      refine ⟨nofun, nofun, fun _ => ⟨rfl, ?_, rfl⟩⟩
      rcases List.eq_nil_or_concat' chunk with rfl | ⟨_, _, rfl⟩
      · exact .inl rfl
      · exact .inr fun hp => h ⟨by simp, hp⟩
  · have hcons := scanBytes_consumed before s.scan
    rw [hd] at hcons
    refine ⟨_, _, _, _, runWhole_feed_of_deliver hd hf, rfl, by simp, ?_, ?_, nofun, nofun⟩
    · rw [chunkEnd_scan, scanStep_consumed, hcons, Nat.add_assoc]
    · rintro _ ⟨⟩
      obtain ⟨hcloses, -⟩ := scanStep_frameReady_iff.mp hf
      rw [scanStep_of_closes hcloses]
      exact ⟨Nat.succ_pos _, rfl, rfl, rfl, rfl⟩

/-- A chunk fed until it is used up is the scanner over it (R148). -/
theorem feedWhole_eq {fuel : Nat} {chunk : List Byte} (hfuel : chunk.length < fuel) (s : State) : ∃ t,
    feedWhole fuel chunk s = some (t, (scanBytes chunk s.scan).2) ∧ t.scan = (scanBytes chunk s.scan).1 := by
  induction fuel generalizing chunk s with
  | zero => omega
  | succ fuel ih =>
    rcases scanBytes_quiet_or_first chunk s.scan with ⟨d, hd⟩ | ⟨before, b, rest, d, f, rfl, hd, hf⟩
    · refine ⟨s.chunkEnd d .none (chunkOutcome chunk.length d.phase) chunk.length, ?_, by rw [hd]; rfl⟩
      rw [feedWhole, runWhole_feed_of_quiet hd, hd]
      exact if_neg (Nat.lt_irrefl _)
    · rw [feedWhole, runWhole_feed_of_deliver hd hf, scanBytes_of_first hd hf rest]
      dsimp only [chunkEnd_feed]
      rcases eq_or_ne rest [] with rfl | hr
      · exact ⟨_, if_neg (by simp), rfl⟩
      · have hpos := List.length_pos_of_ne_nil hr
        simp only [List.length_append, List.length_cons] at hfuel ⊢
        obtain ⟨t, ht, hscan⟩ := ih (chunk := rest) (by omega)
          (s.chunkEnd (scanStep b d).1 (.frameReady f) (.frameReady f) (before.length + 1))
        refine ⟨t, ?_, hscan⟩
        rw [if_pos (by omega), List.drop_append, List.drop_eq_nil_of_le (by omega), Nat.add_sub_cancel_left]
        exact congrArg (Option.map _) ht

theorem feedChunks_eq (chunks : List (List Byte)) (s : State) : ∃ t,
    feedChunks chunks s = some (t, (scanBytes chunks.flatten s.scan).2) ∧
      t.scan = (scanBytes chunks.flatten s.scan).1 := by
  induction chunks generalizing s with
  | nil => exact ⟨s, rfl, rfl⟩
  | cons chunk rest ih =>
    obtain ⟨t, ht, htscan⟩ := feedWhole_eq (Nat.lt_succ_self chunk.length) s
    obtain ⟨u, hu, huscan⟩ := ih t
    rw [htscan] at hu huscan
    refine ⟨u, ?_, ?_⟩
    · rw [feedChunks, ht]
      dsimp only
      rw [hu, List.flatten_cons, scanBytes_append]
      rfl
    · rw [huscan, List.flatten_cons, scanBytes_append]

/-- Settles O38: each side is the scanner over the concatenation. -/
theorem chunkingDoesNotMatter : Obligations.ChunkingDoesNotMatter := by
  intro chunks s
  obtain ⟨t, ht, htscan⟩ := feedChunks_eq chunks s
  obtain ⟨u, hu, huscan⟩ := scanStream_eq chunks.flatten s
  exact ⟨t, u, _, ht, hu, htscan.trans huscan.symm⟩

end Sys2Proof.Machine

end

section

/-! What a byte sequence does to a scanner whose phase, held bytes and `REM` are known (42_scanner.md R131 to R138): the marker, the
header, a stuffed region; and the frames that come out of it (R149, R150, 30_encoding.md R61, R67). -/

namespace Sys2Proof.Machine

open Sys2Proof.Config

/-- What the rules read of a scanner: `PHASE`, `BUF[0..BLEN-1]` and `REM`. -/
structure ScanState.Holds (c : ScanState) (p : Phase) (held : List Byte) (rem : Byte) : Prop where
  phase : c.phase = p
  bytes : c.bytes = held
  rem : c.rem = rem

/-- The bytes deliver nothing and lead to this. -/
def ScanState.Runs (c : ScanState) (bs : List Byte) (p : Phase) (held : List Byte) (rem : Byte) : Prop :=
  ∃ d, scanBytes bs c = (d, []) ∧ d.Holds p held rem

theorem ScanState.Runs.of_quiet {c d : ScanState} {b : Byte} {p : Phase} {held : List Byte} {rem : Byte}
    (h : scanStep b c = quiet d) (hd : d.Holds p held rem) : c.Runs [b] p held rem :=
  ⟨d, scanBytes_cons_of_quiet h [], hd⟩

theorem ScanState.Runs.append {c : ScanState} {xs ys : List Byte} {p q : Phase} {held held' : List Byte} {r r' : Byte}
    (h : c.Runs xs p held r) (h' : ∀ d : ScanState, d.Holds p held r → d.Runs ys q held' r') :
    c.Runs (xs ++ ys) q held' r' := by
  obtain ⟨d, hd, hheld⟩ := h
  obtain ⟨e, he, hheld'⟩ := h' d hheld
  exact ⟨e, by rw [scanBytes_append_of_quiet hd, he], hheld'⟩

/-- The phase after a logical byte that leaves `REM` at this (R135 to R137). -/
def bodyPhase (rem : Byte) : Phase := if rem = 0#8 then .cksum else .body

theorem bodyPhase_of_ne {rem : Byte} (h : rem ≠ 0#8) : bodyPhase rem = .body := if_neg h

theorem bodyPhase_sub_one (r : Byte) : bodyPhase (r - 1#8) = if r = 1#8 then .cksum else .body := by
  have hiff : r - 1#8 = 0#8 ↔ r = 1#8 := by constructor <;> intro h <;> bv_omega
  rw [bodyPhase, if_congr hiff rfl rfl]

theorem bodyPhase_ne_seek0 (r : Byte) : bodyPhase r ≠ .seek0 := by
  rw [bodyPhase]
  split_ifs <;> simp

/-! ### One byte -/

section

variable {c : ScanState} {held : List Byte} {r : Byte}

theorem runs_hdrStation (h : c.Holds .hdrStation held r) (b : Byte) : c.Runs [b] .hdrLen (held ++ [b]) r :=
  .of_quiet (scanStep_hdrStation h.phase) ⟨rfl, by simp [h.bytes], h.rem⟩

theorem runs_hdrLen (h : c.Holds .hdrLen held r) (b : Byte) :
    c.Runs [b] (if b = 0#8 then .cksum else .bodyFn) (held ++ [b]) b :=
  .of_quiet (scanStep_hdrLen h.phase) ⟨rfl, by simp [h.bytes], rfl⟩

/-- A step that completes a logical byte. -/
theorem runs_of_takeLogical {b : Byte} (hb : c.bytes = held) (hr : c.rem = r) (hne : r ≠ 0#8)
    (h : scanStep b c = quiet (c.count.bufAppend b).takeLogical) :
    c.Runs [b] (bodyPhase (r - 1#8)) (held ++ [b]) (r - 1#8) := by
  subst hr
  refine .of_quiet h ⟨?_, by simp [hb], decrement_pos hne⟩
  rw [takeLogical_phase, bufAppend_rem, count_rem, decrement_pos hne, bodyPhase]

theorem runs_bodyFn (h : c.Holds .bodyFn held r) (hne : r ≠ 0#8) (b : Byte) :
    c.Runs [b] (bodyPhase (r - 1#8)) (held ++ [b]) (r - 1#8) :=
  runs_of_takeLogical h.bytes h.rem hne (scanStep_bodyFn h.phase)

theorem runs_body_stuff (h : c.Holds .body held r) : c.Runs [STUFF] .bodyEsc (held ++ [STUFF]) r :=
  .of_quiet (scanStep_body_stuff h.phase) ⟨rfl, by simp [h.bytes], h.rem⟩

theorem runs_body_of_ne (h : c.Holds .body held r) (hne : r ≠ 0#8) {b : Byte} (hb : b ≠ STUFF) :
    c.Runs [b] (bodyPhase (r - 1#8)) (held ++ [b]) (r - 1#8) :=
  runs_of_takeLogical h.bytes h.rem hne (scanStep_body_of_ne h.phase hb)

theorem runs_bodyEsc_stuff (h : c.Holds .bodyEsc held r) (hne : r ≠ 0#8) :
    c.Runs [STUFF] (bodyPhase (r - 1#8)) (held ++ [STUFF]) (r - 1#8) :=
  runs_of_takeLogical h.bytes h.rem hne (scanStep_bodyEsc_stuff h.phase)

end

/-! ### The marker, a pair, a stuffed region, a frame -/

/-- A seeking scanner, with a marker byte held or none. -/
def ScanState.Seeks (c : ScanState) : Prop := c.phase = .seek0 ∨ c.phase = .seek1

/-- R131, R132: whatever is held, the marker opens a candidate. -/
theorem runs_marker {c : ScanState} (hinv : c.Inv) (h : c.Seeks) :
    c.Runs [MARK0, MARK1] .hdrStation [MARK0, MARK1] 0#8 := by
  have hfirst : c.Runs [MARK0] .seek1 [MARK0] 0#8 := by
    rcases h with hp | hp <;> obtain ⟨hbytes, hrem⟩ := hinv.row_of hp
    · exact .of_quiet (scanStep_seek0_mark0 hp) ⟨rfl, by simp [hbytes], hrem⟩
    · exact .of_quiet (scanStep_seek1_mark0 hp) ⟨hp, hbytes, hrem⟩
  exact hfirst.append fun d hd => .of_quiet (scanStep_seek1_mark1 hd.phase) ⟨rfl, by simp [hd.bytes], hd.rem⟩

/-- R136, R137: a pair in the region is one logical byte. -/
theorem runs_pair {c : ScanState} {held : List Byte} {r : Byte} (h : c.Holds .body held r) (hne : r ≠ 0#8) :
    c.Runs [STUFF, STUFF] (bodyPhase (r - 1#8)) (held ++ [STUFF, STUFF]) (r - 1#8) := by
  have h2 := (runs_body_stuff h).append fun d hd => runs_bodyEsc_stuff hd hne
  simpa using h2

/-- A stuffed region of as many logical bytes as `REM` says leads to the checksum. -/
theorem runs_stuff {p : List Byte} {c : ScanState} {held : List Byte} {r : Byte}
    (h : c.Holds (bodyPhase r) held r) (hlen : r.toNat = p.length) : c.Runs (stuff p) .cksum (held ++ stuff p) 0#8 := by
  induction p generalizing c held r with
  | nil =>
    obtain rfl : r = 0#8 := BitVec.eq_of_toNat_eq hlen
    exact ⟨c, rfl, h.phase, by simp [h.bytes], h.rem⟩
  | cons b p ih =>
    have hne : r ≠ 0#8 := by rintro rfl; simp at hlen
    have hrest : (r - 1#8).toNat = p.length := by
      rw [← decrement_pos hne, decrement_toNat hne, hlen, List.length_cons, Nat.add_sub_cancel]
    rw [bodyPhase_of_ne hne] at h
    by_cases hb : b = STUFF
    · subst hb
      have hrun := (runs_pair h hne).append fun d hd => ih hd hrest
      simpa using hrun
    · have hrun := (runs_body_of_ne h hne hb).append fun d hd => ih hd hrest
      simpa [stuff_cons_of_ne hb] using hrun

/-- R150, up to the checksum: a seeking scanner holds all of an encoded frame but its last byte. -/
theorem runs_frameHead {c : ScanState} (hinv : c.Inv) (h : c.Seeks) {payload : List Byte}
    (hle : payload.length ≤ MAX_PAYLOAD) (station function : Byte) :
    c.Runs (frameHead station (lengthField payload) function (stuff payload)) .cksum
      (frameHead station (lengthField payload) function (stuff payload)) 0#8 := by
  have hlf := toNat_lengthField hle
  have hne : lengthField payload ≠ 0#8 := by
    intro hz
    rw [hz] at hlf
    simp at hlf
    omega
  have hrest : (lengthField payload - 1#8).toNat = payload.length := by
    rw [← decrement_pos hne, decrement_toNat hne, hlf, Nat.add_sub_cancel_left]
  have hlength (d : ScanState) (hd : d.Holds .hdrLen [MARK0, MARK1, station] 0#8) :
      d.Runs [lengthField payload] .bodyFn [MARK0, MARK1, station, lengthField payload] (lengthField payload) := by
    simpa [hne] using runs_hdrLen hd (lengthField payload)
  exact ((((runs_marker hinv h).append fun d hd => runs_hdrStation hd station).append hlength).append
    fun d hd => runs_bodyFn hd hne function).append fun d hd => runs_stuff hd hrest

/-! ### Chunks -/

theorem ScanState.Holds.of_phase {c : ScanState} {p : Phase} (h : c.phase = p) : c.Holds p c.bytes c.rem := ⟨h, rfl, rfl⟩

/-- A chunk that leaves the scanner in a candidate asks for more. -/
theorem runWhole_feed_of_runs {s : State} {chunk held : List Byte} {p : Phase} {r : Byte}
    (h : s.scan.Runs chunk p held r) (hp : p ≠ .seek0) : ∃ t, runWhole (.feed chunk) s = some (t, []) ∧
      t.scan.Holds p held r ∧ t.out.feed = some ⟨.needMoreData, chunk.length⟩ := by
  obtain ⟨d, hd, hheld⟩ := h
  refine ⟨_, runWhole_feed_of_quiet hd, hheld, ?_⟩
  rw [chunkEnd_feed, chunkOutcome_needMoreData fun hgarbage => hp (hheld.phase.symm.trans hgarbage.2)]

/-- A byte that completes the candidate delivers what is held with it, and leaves nothing held (R140). -/
theorem ScanState.Runs.delivers {c : ScanState} {before held : List Byte} {b : Byte} {p : Phase} {r : Byte}
    (h : c.Runs before p held r) (hp : p = .cksum ∨ (p = .bodyEsc ∧ b ≠ STUFF)) :
    ∃ d, scanBytes before c = (d, []) ∧ (scanStep b d).2 = .frameReady (held ++ [b]) ∧
      (scanStep b d).1.phase = .seek0 ∧ (scanStep b d).1.bytes = [] := by
  obtain ⟨d, hd, rfl, rfl, -⟩ := h
  exact ⟨d, hd, scanStep_frameReady_iff.mpr ⟨hp, rfl⟩, by rw [scanStep_of_closes hp, deliver_phase],
    by rw [scanStep_of_closes hp, bytes_deliver]⟩

theorem scanBytes_of_closes {c : ScanState} {before held : List Byte} {b : Byte} {p : Phase} {r : Byte}
    (h : c.Runs before p held r) (hp : p = .cksum ∨ (p = .bodyEsc ∧ b ≠ STUFF)) :
    ∃ d, scanBytes (before ++ [b]) c = (d, [held ++ [b]]) ∧ d.phase = .seek0 ∧ d.bytes = [] := by
  obtain ⟨d, hd, hf, hend⟩ := h.delivers hp
  exact ⟨_, scanBytes_of_first hd hf [], hend⟩

/-- The same as a chunk. -/
theorem runWhole_feed_of_closes {s : State} {before held : List Byte} {b : Byte} {p : Phase} {r : Byte}
    (h : s.scan.Runs before p held r) (hp : p = .cksum ∨ (p = .bodyEsc ∧ b ≠ STUFF)) :
    ∃ t, runWhole (.feed (before ++ [b])) s = some (t, [held ++ [b]]) ∧ t.scan.phase = .seek0 ∧ t.scan.bytes = [] ∧
      t.out.event = .frameReady (held ++ [b]) ∧ t.out.feed = some ⟨.frameReady (held ++ [b]), before.length + 1⟩ := by
  obtain ⟨d, hd, hf, hphase, hbytes⟩ := h.delivers hp
  exact ⟨_, runWhole_feed_of_deliver hd hf, hphase, hbytes, rfl, rfl⟩

/-- Settles O41: the pair as a chunk. -/
theorem stuffPairIsOneLogicalByte : Obligations.StuffPairIsOneLogicalByte := by
  intro s hp hne
  obtain ⟨t, ht, hheld, hfeed⟩ := runWhole_feed_of_runs (runs_pair (.of_phase hp) hne) (bodyPhase_ne_seek0 _)
  exact ⟨t, ht, hheld.bytes, hheld.rem, hheld.phase.trans (bodyPhase_sub_one s.scan.rem), hfeed⟩

theorem mark1_ne_stuff : MARK1 ≠ STUFF := by decide

/-- Settles O40: seeking, the marker is R131 and R132; in the region its first byte is R136 or R137, and its second one closes the
candidate or is a logical byte. -/
theorem markerOpensCandidateWhenSeeking : Obligations.MarkerOpensCandidateWhenSeeking := by
  refine ⟨fun s hinv hp => ?_, fun s hinv hp => ?_, fun s hinv hp => ⟨fun hr => ?_, fun hr => ?_⟩⟩
  · obtain ⟨t, ht, hheld, hfeed⟩ := runWhole_feed_of_runs (runs_marker hinv.scan hp) (by simp)
    exact ⟨t, ht, hheld.phase, hheld.bytes, hfeed⟩
  · have hfirst : s.scan.Runs [MARK0] .bodyEsc (s.scan.bytes ++ [MARK0]) s.scan.rem := runs_body_stuff (.of_phase hp)
    obtain ⟨t, ht, hphase, hbytes, -, hfeed⟩ := runWhole_feed_of_closes hfirst (.inr ⟨rfl, mark1_ne_stuff⟩)
    rw [List.append_assoc] at ht hfeed
    exact ⟨t, ht, hphase, hbytes, hfeed⟩
  all_goals
    have hfirst : s.scan.Runs [MARK0] (bodyPhase (s.scan.rem - 1#8)) (s.scan.bytes ++ [MARK0]) (s.scan.rem - 1#8) :=
      runs_bodyEsc_stuff (.of_phase hp) (rem_ne_zero_of_bodyEsc hinv.scan hp)
    rw [bodyPhase_sub_one] at hfirst
  · rw [if_pos (show s.scan.rem = 1#8 from hr)] at hfirst
    obtain ⟨t, ht, hphase, hbytes, -, hfeed⟩ := runWhole_feed_of_closes (b := MARK1) hfirst (.inl rfl)
    rw [List.append_assoc] at ht hfeed
    exact ⟨t, ht, hphase, hbytes, hfeed⟩
  · rw [if_neg (show s.scan.rem ≠ 1#8 from hr)] at hfirst
    have hne : s.scan.rem - 1#8 ≠ 0#8 := fun hz => hr (by bv_omega)
    have hboth := hfirst.append fun d hd => runs_body_of_ne hd hne mark1_ne_stuff
    obtain ⟨t, ht, hheld, hfeed⟩ := runWhole_feed_of_runs hboth (bodyPhase_ne_seek0 _)
    have htwo : s.scan.rem - 1#8 = 1#8 ↔ s.scan.rem = 2 := by constructor <;> intro h <;> bv_omega
    refine ⟨t, ht, by rw [hheld.bytes, List.append_assoc]; rfl, by rw [hheld.rem]; bv_omega, ?_, hfeed⟩
    rw [hheld.phase, bodyPhase_sub_one, if_congr htwo rfl rfl]

/-! ### Encoded frames -/

section

variable {c : ScanState} (hinv : c.Inv) (h : c.Seeks) {payload : List Byte} (hle : payload.length ≤ MAX_PAYLOAD)
  (station function : Byte)
include hinv h hle

/-- R150: nothing before the last byte. -/
theorem scanBytes_dropLast_encodedFrame : ∃ d, scanBytes (encodedFrame station function payload).dropLast c = (d, []) := by
  obtain ⟨d, hd, -⟩ := runs_frameHead hinv h hle station function
  exact ⟨d, by rw [encodedFrame, dropLast_frameBytes, hd]⟩

/-- R150: the frame on the last byte. -/
theorem scanBytes_encodedFrame : ∃ d, scanBytes (encodedFrame station function payload) c =
    (d, [encodedFrame station function payload]) ∧ d.phase = .seek0 ∧ d.bytes = [] :=
  scanBytes_of_closes (runs_frameHead hinv h hle station function) (.inl rfl)

end

theorem exists_scanStream_of_scanBytes {bs : List Byte} {s : State} {d : ScanState} {frames : List (List Byte)}
    (h : scanBytes bs s.scan = (d, frames)) : ∃ u, scanStream bs s = some (u, frames) ∧ u.scan = d := by
  obtain ⟨u, hu, hscan⟩ := scanStream_eq bs s
  rw [h] at hu hscan
  exact ⟨u, hu, hscan⟩

/-- Settles O42: R150, on the stream and as a chunk. -/
theorem encodedFrameIsDeliveredOnLastByte : Obligations.EncodedFrameIsDeliveredOnLastByte := by
  intro station function payload F s e t hinv hp he hF
  obtain ⟨hle, rfl⟩ := encodedFrame_of_exec_enc he hF
  refine ⟨?_, ?_, ?_⟩
  · obtain ⟨d, hd⟩ := scanBytes_dropLast_encodedFrame hinv.scan hp hle station function
    obtain ⟨u, hu, -⟩ := exists_scanStream_of_scanBytes hd
    exact ⟨u, hu⟩
  · obtain ⟨d, hd, hphase, hbytes⟩ := scanBytes_encodedFrame hinv.scan hp hle station function
    obtain ⟨v, hv, rfl⟩ := exists_scanStream_of_scanBytes hd
    exact ⟨v, hv, hphase, hbytes⟩
  · obtain ⟨w, hw, -, -, hevent, hfeed⟩ := runWhole_feed_of_closes
      (b := sum8 (frameHead station (lengthField payload) function (stuff payload)))
      (runs_frameHead hinv.scan hp hle station function) (.inl rfl)
    rw [encodedFrame, dropLast_frameBytes]
    refine ⟨w, hw, hevent, hfeed.trans ?_⟩
    rw [length_frameHead, length_frameBytes, Nat.add_right_comm]
    rfl

/-- Unless it completes the marker, a byte leaves the scanner seeking, and what is held is the end of what was held and the byte
(R131, R132). -/
theorem scanStep_of_seeks {c : ScanState} (hinv : c.Inv) (h : c.Seeks) {b : Byte}
    (hmark : ¬ (c.phase = .seek1 ∧ b = MARK1)) (rest : List Byte) :
    ∃ d, scanStep b c = quiet d ∧ d.Seeks ∧ d.bytes ++ rest <:+ c.bytes ++ b :: rest := by
  rcases h with hp | hp
  · have hbytes : c.bytes = [] := (hinv.row_of hp).1
    by_cases h0 : b = MARK0
    · subst h0
      exact ⟨_, scanStep_seek0_mark0 hp, .inr rfl, by simp [hbytes]⟩
    · exact ⟨_, scanStep_seek0_of_ne_mark0 hp h0, .inl hp, by simp [hbytes]⟩
  · have hbytes : c.bytes = [MARK0] := (hinv.row_of hp).1
    by_cases h0 : b = MARK0
    · subst h0
      exact ⟨_, scanStep_seek1_mark0 hp, .inr hp, by simp [hbytes]⟩
    · exact ⟨_, scanStep_seek1_of_ne hp (fun h1 => hmark ⟨hp, h1⟩) h0, .inl rfl, by
        simpa [hbytes] using (List.suffix_cons b rest).trans (List.suffix_cons MARK0 _)⟩

/-- Noise without the marker, after what a seeking scanner holds, leaves it seeking and delivers nothing (R149). -/
theorem scanBytes_noise {c : ScanState} (hinv : c.Inv) (h : c.Seeks) {noise : List Byte}
    (hnoise : ¬ [MARK0, MARK1] <:+: c.bytes ++ noise) : ∃ d, scanBytes noise c = (d, []) ∧ d.Inv ∧ d.Seeks := by
  induction noise generalizing c with
  | nil => exact ⟨c, rfl, hinv, h⟩
  | cons b noise ih =>
    have hmark : ¬ (c.phase = .seek1 ∧ b = MARK1) := by
      rintro ⟨hp, rfl⟩
      exact hnoise ⟨[], noise, by rw [(hinv.row_of hp).1]; rfl⟩
    obtain ⟨d, hd, hseeks, hsuffix⟩ := scanStep_of_seeks hinv h hmark noise
    have hdinv : d.Inv := by simpa [hd] using inv_scanStep hinv b
    obtain ⟨e, he, hinv', hseeks'⟩ := ih hdinv hseeks fun hin => hnoise (hin.trans hsuffix.isInfix)
    exact ⟨e, by rw [scanBytes_cons_of_quiet hd, he], hinv', hseeks'⟩

/-- Settles O43: after the noise the scanner seeks, and R150 applies. -/
theorem noiseBeforeFrameIsTolerated : Obligations.NoiseBeforeFrameIsTolerated := by
  intro noise F payload station function e t hnoise he hF
  obtain ⟨hle, rfl⟩ := encodedFrame_of_exec_enc he hF
  obtain ⟨d, hd, hinv, hseeks⟩ := scanBytes_noise (noise := noise) inv_reset (.inl rfl) hnoise
  constructor
  · obtain ⟨e, he⟩ := scanBytes_dropLast_encodedFrame hinv hseeks hle station function
    obtain ⟨u, hu, -⟩ := exists_scanStream_of_scanBytes (s := State.reset)
      ((scanBytes_append_of_quiet hd _).trans he)
    exact ⟨u, hu⟩
  · obtain ⟨e, he, -⟩ := scanBytes_encodedFrame hinv hseeks hle station function
    obtain ⟨v, hv, -⟩ := exists_scanStream_of_scanBytes (s := State.reset)
      ((scanBytes_append_of_quiet hd _).trans he)
    exact ⟨v, hv⟩

end Sys2Proof.Machine

end

section

/-! Candidates in progress and delivered (42_scanner.md R151, R152, 70_reset_and_hazards.md R195): how many further bytes complete
one, what it begins with, and what `DEC` makes of it. -/

namespace Sys2Proof.Machine

open Sys2Proof.Config

/-- The scanner holds a candidate: the marker and what has come after it. -/
def ScanState.InCandidate (c : ScanState) : Prop := c.phase ≠ .seek0 ∧ c.phase ≠ .seek1

/-- In a candidate a byte is appended, and completes it or leaves it in progress. -/
theorem scanStep_of_inCandidate {c : ScanState} (h : c.InCandidate) (b : Byte) :
    (scanStep b c).2 = .frameReady (c.bytes ++ [b]) ∨
      ∃ d, scanStep b c = quiet d ∧ d.bytes = c.bytes ++ [b] ∧ d.InCandidate := by
  rcases scanStep_buf_cases b c with ⟨-, d, e, hd⟩ | ⟨hp, -⟩ | ⟨hp, -⟩ | ⟨hp, -⟩ | ⟨hc, -⟩
  · exact .inr ⟨d, e, hd.bytes, hd.phase.1, hd.phase.2 h.1⟩
  · exact absurd hp h.1
  · exact absurd hp h.2
  · exact absurd hp h.2
  · exact .inl (scanStep_frameReady_iff.mpr ⟨hc, rfl⟩)

/-- R195: the first frame continues what is held. -/
theorem bytes_prefix_of_first_frame {c d : ScanState} (h : c.InCandidate) {bs f : List Byte} {frames : List (List Byte)}
    (hrun : scanBytes bs c = (d, f :: frames)) : c.bytes <+: f := by
  induction bs generalizing c with
  | nil => cases hrun
  | cons b bs ih =>
    rcases scanStep_of_inCandidate h b with hf | ⟨e, he, hbytes, hin⟩
    · rw [scanBytes_cons, hf] at hrun
      cases hrun
      exact List.prefix_append c.bytes [b]
    · rw [scanBytes_cons_of_quiet he] at hrun
      exact (List.prefix_append c.bytes [b]).trans (hbytes ▸ ih hin hrun)

/-- Settles O46: R195, on the stream. -/
theorem partialCandidateIsContinued : Obligations.PartialCandidateIsContinued := by
  intro s u bs f frames _ h0 h1 hrun
  obtain ⟨t, ht, -⟩ := scanStream_eq bs s
  rw [hrun] at ht
  have hframes : (scanBytes bs s.scan).2 = f :: frames := (Prod.ext_iff.mp (Option.some.inj ht)).2.symm
  exact bytes_prefix_of_first_frame ⟨h0, h1⟩ (Prod.ext rfl hframes)

/-! ### The bound -/

/-- How many further bytes complete the candidate at the latest, by `PHASE` and `REM` (R152): each logical byte left may be a pair,
and the checksum comes last. -/
def deliveryBound : Phase → Byte → Nat
  | .seek0, _ => 0
  | .seek1, _ => 0
  | .hdrStation, _ => 512
  | .hdrLen, _ => 511
  | .bodyFn, r => 2 * r.toNat
  | .body, r => 2 * r.toNat + 1
  | .bodyEsc, r => 2 * r.toNat
  | .cksum, _ => 1

theorem deliveryBound_bodyPhase (r : Byte) : deliveryBound (bodyPhase r) r = 2 * r.toNat + 1 := by
  rw [bodyPhase]
  split_ifs with h
  · subst h; rfl
  · rfl

theorem toNat_sub_one {r : Byte} (h : r ≠ 0#8) : (r - 1#8).toNat + 1 = r.toNat := by
  have hpos : r.toNat ≠ 0 := fun hz => h (BitVec.eq_of_toNat_eq hz)
  rw [← decrement_pos h, decrement_toNat h]
  omega

theorem deliveryBound_pos {c : ScanState} (hinv : c.Inv) (h : c.InCandidate) : 0 < deliveryBound c.phase c.rem := by
  have hpos (hne : c.rem ≠ 0#8) : 0 < 2 * c.rem.toNat := by
    have := toNat_sub_one hne
    omega
  cases hp : c.phase with
  | seek0 => exact absurd hp h.1
  | seek1 => exact absurd hp h.2
  | hdrStation => exact Nat.succ_pos _
  | hdrLen => exact Nat.succ_pos _
  | bodyFn => exact hpos (rem_ne_zero_of_bodyFn hinv hp)
  | body => exact Nat.succ_pos _
  | bodyEsc => exact hpos (rem_ne_zero_of_bodyEsc hinv hp)
  | cksum => exact Nat.succ_pos _

theorem ScanState.Runs.holds_of_quiet {c d : ScanState} {b : Byte} {p : Phase} {held : List Byte} {r : Byte}
    (h : c.Runs [b] p held r) (hq : scanStep b c = quiet d) : d.Holds p held r := by
  obtain ⟨e, he, hheld⟩ := h
  rw [scanBytes_cons_of_quiet hq] at he
  cases he
  exact hheld

theorem not_closes_of_quiet {c d : ScanState} {b : Byte} (hq : scanStep b c = quiet d) : ¬ c.Closes b := by
  intro hc
  have hf := scanStep_frameReady_iff.mpr ⟨hc, rfl⟩
  rw [hq] at hf
  cases hf

/-- A byte that does not complete the candidate brings its delivery nearer. -/
theorem deliveryBound_lt {c d : ScanState} {b : Byte} (hinv : c.Inv) (h : c.InCandidate)
    (hq : scanStep b c = quiet d) : deliveryBound d.phase d.rem < deliveryBound c.phase c.rem := by
  have of_runs {p : Phase} {held : List Byte} {r : Byte} (hrun : c.Runs [b] p held r)
      (hlt : deliveryBound p r < deliveryBound c.phase c.rem) :
      deliveryBound d.phase d.rem < deliveryBound c.phase c.rem := by
    rwa [(hrun.holds_of_quiet hq).phase, (hrun.holds_of_quiet hq).rem]
  have of_logical {held : List Byte} (hne : c.rem ≠ 0#8)
      (hrun : c.Runs [b] (bodyPhase (c.rem - 1#8)) held (c.rem - 1#8))
      (hle : 2 * c.rem.toNat ≤ deliveryBound c.phase c.rem) :
      deliveryBound d.phase d.rem < deliveryBound c.phase c.rem := by
    have := toNat_sub_one hne
    exact of_runs hrun (by rw [deliveryBound_bodyPhase]; omega)
  cases hp : c.phase <;> rw [hp] at of_runs of_logical
  case seek0 => exact absurd hp h.1
  case seek1 => exact absurd hp h.2
  case hdrStation => exact of_runs (runs_hdrStation (.of_phase hp) b) (Nat.lt_succ_self 511)
  case hdrLen =>
    have := b.isLt
    refine of_runs (runs_hdrLen (.of_phase hp) b) ?_
    split_ifs <;> simp only [deliveryBound] <;> omega
  case bodyFn =>
    have hne := rem_ne_zero_of_bodyFn hinv hp
    exact of_logical hne (runs_bodyFn (.of_phase hp) hne b) le_rfl
  case body =>
    have hne := rem_ne_zero_of_body hinv hp
    by_cases hb : b = STUFF
    · subst hb
      exact of_runs (runs_body_stuff (.of_phase hp)) (Nat.lt_succ_self _)
    · exact of_logical hne (runs_body_of_ne (.of_phase hp) hne hb) (Nat.le_succ _)
  case bodyEsc =>
    have hne := rem_ne_zero_of_bodyEsc hinv hp
    by_cases hb : b = STUFF
    · subst hb
      exact of_logical hne (runs_bodyEsc_stuff (.of_phase hp) hne) le_rfl
    · exact absurd (.inr ⟨hp, hb⟩) (not_closes_of_quiet hq)
  case cksum => exact absurd (.inl hp) (not_closes_of_quiet hq)

/-- R152: within the bound a frame is delivered, whatever the bytes. -/
theorem scanBytes_frames_ne_nil {c : ScanState} (hinv : c.Inv) (h : c.InCandidate) {bs : List Byte}
    (hlen : deliveryBound c.phase c.rem ≤ bs.length) : (scanBytes bs c).2 ≠ [] := by
  induction bs generalizing c with
  | nil => exact absurd hlen (not_le.mpr (deliveryBound_pos hinv h))
  | cons b bs ih =>
    rcases scanStep_of_inCandidate h b with hf | ⟨d, hd, -, hin⟩
    · rw [scanBytes_cons, hf]
      exact List.cons_ne_nil _ _
    · have hlt := deliveryBound_lt hinv h hd
      have hdinv : d.Inv := by simpa [hd] using inv_scanStep hinv b
      rw [scanBytes_cons_of_quiet hd]
      exact ih hdinv hin (by rw [List.length_cons] at hlen; omega)

/-- Settles O45: R152, on the stream. -/
theorem candidateCompletesWithinBound : Obligations.CandidateCompletesWithinBound := by
  intro s bs hinv
  have of_bound (hin : s.scan.InCandidate) (hlen : deliveryBound s.scan.phase s.scan.rem ≤ bs.length) :
      ∃ u frames, scanStream bs s = some (u, frames) ∧ frames ≠ [] := by
    obtain ⟨u, hu, -⟩ := scanStream_eq bs s
    exact ⟨u, _, hu, scanBytes_frames_ne_nil hinv.scan hin hlen⟩
  refine ⟨fun hp hlen => of_bound ?_ ?_, fun hp hlen => of_bound ?_ ?_⟩
  · rcases hp with hp | hp | hp | hp <;> simp [ScanState.InCandidate, hp]
  · rcases hp with hp | hp | hp | hp <;> simp only [hp, deliveryBound] <;> omega
  · simp [ScanState.InCandidate, hp]
  · simpa only [hp, deliveryBound] using hlen

/-! ### Delivered candidates -/

/-- A marked buffer whose region de-stuffs to as many bytes as LENGTH says is never malformed (R151). -/
theorem decodeFrame_ne_malformed {station length function checksum : Byte} {region payload : List Byte}
    (hu : unstuff region = some payload) (hl : length.toNat = 1 + payload.length) (e : Byte) :
    decodeFrame (frameBytes station length function region checksum) e ≠ .error .malformedFrame := by
  by_cases hsum : checksum = sum8 (frameHead station length function region)
  · rw [hsum, decodeFrame_frameBytes hu, if_neg (not_not.mpr hl)]
    split_ifs <;> simp
  · rw [decodeFrame_frameBytes_of_checksum_ne hsum]
    simp

/-- A marked buffer whose region does not de-stuff is always in error (R127 (g)). -/
theorem decodeFrame_error_of_unstuff_eq_none {station length function checksum : Byte} {region : List Byte}
    (hu : unstuff region = none) (e : Byte) :
    ∃ d, decodeFrame (frameBytes station length function region checksum) e = .error d := by
  by_cases hsum : checksum = sum8 (frameHead station length function region)
  · exact ⟨_, hsum ▸ decodeFrame_frameBytes_of_unstuff_eq_none hu⟩
  · exact ⟨_, decodeFrame_frameBytes_of_checksum_ne hsum⟩

/-- A region that de-stuffs, with one more `STUFF`, does not. -/
theorem unstuff_concat_stuff {region p : List Byte} (h : unstuff region = some p) : unstuff (region ++ [STUFF]) = none := by
  rw [unstuff_append h, unstuff_singleton_stuff, Option.map_none]

/-- What comes out of `CKSUM`: the empty body of LENGTH 0, or a frame whose LENGTH counts its region (R25). -/
theorem candidate_of_cksum {c : ScanState} (h : c.Inv) (hp : c.phase = .cksum) (b : Byte) :
    (∃ station, c.bytes ++ [b] = [MARK0, MARK1, station, 0#8, b]) ∨ ∃ station length function region p,
      c.bytes ++ [b] = frameBytes station length function region b ∧ unstuff region = some p ∧
        length.toNat = 1 + p.length := by
  obtain ⟨-, ⟨station, hbytes⟩ | ⟨station, length, function, region, p, hbytes, hrest⟩⟩ := h.row_of hp
  · exact .inl ⟨station, by rw [hbytes]; rfl⟩
  · exact .inr ⟨station, length, function, region, p, by rw [hbytes]; rfl, hrest⟩

/-- What comes out of `BODY_ESC`: a frame whose region ends in a `STUFF` without a partner (R25, R137). -/
theorem candidate_of_bodyEsc {c : ScanState} (h : c.Inv) (hp : c.phase = .bodyEsc) (b : Byte) :
    ∃ station length function region p, c.bytes ++ [b] = frameBytes station length function (region ++ [STUFF]) b ∧
      unstuff region = some p ∧ 1 + p.length < length.toNat := by
  obtain ⟨station, length, function, region, p, hbytes, hu, hrem, hl⟩ := h.row_of hp
  have := toNat_sub_one hrem
  exact ⟨station, length, function, region, p, by simp [hbytes, frameBytes, frameHead], hu, by omega⟩

/-- Settles O44: what comes out of each of the two phases, and what `DEC` makes of it (R151, R127 (g)). -/
theorem deliveredCandidateIsDecodable : Obligations.DeliveredCandidateIsDecodable := by
  intro s t b f hinv ht hf
  rw [exec_scanb] at ht
  cases ht
  obtain ⟨hp | ⟨hp, -⟩, rfl⟩ := scanStep_frameReady_iff.mp hf
  · have hesc : s.scan.phase ≠ .bodyEsc := by simp [hp]
    rcases candidate_of_cksum hinv.scan hp b with ⟨station, hf⟩ | ⟨station, length, function, region, p, hf, hu, hl⟩ <;>
      rw [hf]
    · exact ⟨rfl, le_rfl, Nat.le_add_left 5 509, fun _ => ⟨fun _ => rfl, fun hne => absurd rfl hne⟩, fun h => absurd h hesc⟩
    · have hlen := length_le_of_unstuff hu
      have hmax := length.isLt
      rw [length_frameBytes, byteAt_three_frameBytes, regionField_frameBytes, MAX_FRAME]
      refine ⟨rfl, by omega, by omega, fun _ => ⟨fun hz => ?_, fun _ => ⟨p, hu, hl.symm, fun e =>
        ⟨_, _, exec_dec .., rfl, decodeFrame_ne_malformed hu hl e⟩⟩⟩, fun h => absurd h hesc⟩
      have hzero : length.toNat = 0 := by rw [hz]; rfl
      omega
  · have hck : s.scan.phase ≠ .cksum := by simp [hp]
    obtain ⟨station, length, function, region, p, hf, hu, hl⟩ := candidate_of_bodyEsc hinv.scan hp b
    have hlen := length_le_of_unstuff hu
    have hmax := length.isLt
    rw [hf, length_frameBytes, List.length_append, List.length_singleton, MAX_FRAME]
    refine ⟨rfl, by omega, by omega, fun h => absurd h hck, fun _ e => ?_⟩
    obtain ⟨d, hd⟩ := decodeFrame_error_of_unstuff_eq_none (unstuff_concat_stuff hu) e
    exact ⟨_, d, exec_dec .., by rw [returnDec_out, hd]⟩

end Sys2Proof.Machine

end
